-- ==== Sys2Proof/Word.lean ====
section
/-! DEFINITION. The words of the PL4: bytes, 16-bit indices and stamps, 32-bit host addresses and registers
(sections 0.1 and 0.6), and the numbers that name a line, a station slot, a poll entry and a host ring. -/

namespace Sys2Proof

/-- One byte of host memory, or the eight data bits of one character (R1, section 0.6). -/
abbrev Byte := BitVec 8

/-- A 16-bit value: ring indices (R139), stamps and tags (R149, R193). -/
abbrev Half := BitVec 16

/-- A 32-bit value: host addresses and registers (section 0.6, R200). -/
abbrev Word := BitVec 32

/-- A line, 0..3 (section 0.5). -/
abbrev LineId := Fin 4

/-- A station slot, 0..127 (R66). -/
abbrev SlotId := Fin 128

/-- A poll entry id, 0..95 (R89). -/
abbrev PollId := Fin 96

/-- A host-produced ring, 0..4: ring 0 is the admin ring, ring n + 1 the request ring of line n (R137). -/
abbrev RingId := Fin 5

end Sys2Proof
end

