-- ==== Sys2Proof/Syntax.lean ====
section
/-! DEFINITION. The commands of the block: one constructor for each row of spec/opcode_table.json, in the
table's order. The operands are what the outside gives with the event: the bits of a register write (R174,
R175, R200), the outcome of a bus burst and the bytes it read (R185, R188, R189), the tag and argument bytes of an
admin record (R193), and the line and character of a line event (R3). -/

namespace Sys2Proof

/-- The 29 bytes of an admin record that follow its tag and its command code: offsets 3 to 31 of R193. -/
abbrev AdminBody := Vector Byte 29

/-- The commands of the PL4, one constructor for each row of the table. -/
inductive Instr where
  /-- POWER_ON_RESET (R181): the reset input is asserted. -/
  | powerOnReset
  /-- FUNCTION_RESET (R181): a CONTROL write with RESET one; the write's other bits are carried and discarded (R175). -/
  | functionReset (enableBit irqBit : Bool)
  /-- RESET_VALUES (R181): the burst in progress at a reset has ended. -/
  | resetValues
  /-- ENABLE_SET (R175): a CONTROL write with ENABLE one and RESET zero; `irqBit` is its IRQ_ENABLE bit. -/
  | enableSet (irqBit : Bool)
  /-- ENABLE_CLEAR (R179): a CONTROL write with ENABLE zero and RESET zero; `irqBit` is its IRQ_ENABLE bit. -/
  | enableClear (irqBit : Bool)
  /-- IRQ_ENABLE (R175): a CONTROL write that leaves ENABLE as it was and gives IRQ_ENABLE the value `irqBit`. -/
  | irqEnable (irqBit : Bool)
  /-- ATTENTION_ACKNOWLEDGE (R182): a write of the ATTENTION register. -/
  | attentionAcknowledge (value : Word)
  /-- ATTENTION_MASK (R183): a write of the ATTENTION MASK register. -/
  | attentionMask (value : Word)
  /-- NOTIFY (R140): a write of the NOTIFY register. -/
  | notify (value : Word)
  /-- COMPLETION_RELEASE (R153): a write of the COMPLETION RELEASE register. -/
  | completionRelease (value : Word)
  /-- CAPTURE_RELEASE (R132): a write of the CAPTURE RELEASE register. -/
  | captureRelease (value : Word)
  /-- REGISTER_WRITE (R174): a write at a byte offset of the 64-byte register window (R200). -/
  | registerWrite (offset : BitVec 6) (value : Word)
  /-- BUS_GRANT (R185): the bus-master arbiter grants the free host bus. -/
  | busGrant
  /-- CONTEXT_LOAD_END (R137): the context burst ends; `error` is its outcome, `data` the 64 bytes it read. -/
  | contextLoadEnd (error : Bool) (data : Vector Byte 64)
  /-- RECORD_FETCH_END (R146): a record fetch burst ends; `data` is the 32-byte record it read. -/
  | recordFetchEnd (error : Bool) (data : Vector Byte 32)
  /-- SHADOW_WRITE_END (R142): a shadow area burst ends. -/
  | shadowWriteEnd (error : Bool)
  /-- COMPLETION_WRITE_END (R152): a completion record burst ends. -/
  | completionWriteEnd (error : Bool)
  /-- CLAIM_GRANT (R151): a free holding-queue entry is granted to the first waiting claimant. -/
  | claimGrant
  /-- MODERATION_HOLDOFF_EXPIRY (R184): the holdoff timer expires. -/
  | moderationHoldoffExpiry
  /-- CAPTURE_WRITE_END (R130): a capture writer burst ends. -/
  | captureWriteEnd (error : Bool)
  /-- DATA_MOVER_BURST_END (R34): a burst of the line's data mover ends; of `data`, a read burst read its length in bytes. -/
  | dataMoverBurstEnd (line : LineId) (error : Bool) (data : Vector Byte 64)
  /-- ADMIN_DATA_WRITE_END (R157): the admin data writer's burst ends. -/
  | adminDataWriteEnd (error : Bool)
  /-- CONFIGURE_LINE (R160, code 01h): the admin record is handed over at its take. -/
  | configureLine (tag : Half) (body : AdminBody)
  /-- START_LINE (R161, code 02h). -/
  | startLine (tag : Half) (body : AdminBody)
  /-- STOP_LINE (R162, code 03h). -/
  | stopLine (tag : Half) (body : AdminBody)
  /-- DEFINE_STATION (R163, code 04h). -/
  | defineStation (tag : Half) (body : AdminBody)
  /-- MODIFY_STATION (R164, code 05h). -/
  | modifyStation (tag : Half) (body : AdminBody)
  /-- REMOVE_STATION (R167, code 06h). -/
  | removeStation (tag : Half) (body : AdminBody)
  /-- HOLD_STATION (R165, code 07h). -/
  | holdStation (tag : Half) (body : AdminBody)
  /-- RELEASE_STATION (R166, code 08h). -/
  | releaseStation (tag : Half) (body : AdminBody)
  /-- READ_STATION (R168, code 09h). -/
  | readStation (tag : Half) (body : AdminBody)
  /-- DEFINE_POLL (R169, code 0Ah). -/
  | definePoll (tag : Half) (body : AdminBody)
  /-- DELETE_POLL (R170, code 0Bh). -/
  | deletePoll (tag : Half) (body : AdminBody)
  /-- READ_LINE (R171, code 0Ch). -/
  | readLine (tag : Half) (body : AdminBody)
  /-- SET_CAPTURE (R172, code 0Dh). -/
  | setCapture (tag : Half) (body : AdminBody)
  /-- RESTART_RING (R173, code 0Eh). -/
  | restartRing (tag : Half) (body : AdminBody)
  /-- BAD_COMMAND (R156): an admin record whose code is not 01h..0Eh. -/
  | badCommand (tag : Half) (code : Byte) (body : AdminBody)
  /-- DEFERRED_COMMAND_APPLY (R158): the deferred command applies when its condition holds. -/
  | deferredCommandApply
  /-- HALT_CONDITION (R180): the halt condition is tested in HALTING. -/
  | haltCondition
  /-- STOPPING_LINE_OFF (R39): a STOPPING engine with no work left goes to OFF. -/
  | stoppingLineOff (line : LineId)
  /-- CHARACTER_RECEIVED (R3): the line's receiver hands over a character. `bits` are its data bits in the order in which they were
  sampled, `parityBit` the sample at the parity bit's place, not looked at with parity none (log entry 19), `stopBit` the sample of the
  first stop bit, which is the level of RXn at the hand-over (log entry 30). -/
  | characterReceived (line : LineId) (bits : Vector Bool 8) (parityBit stopBit : Bool)
  /-- BREAK_DETECTED (R4, R36): the line's receiver reports a break. -/
  | breakDetected (line : LineId)
  /-- INTER_CHARACTER_LIMIT_EXPIRY (R12): the inter-character limit elapses. -/
  | interCharacterLimitExpiry (line : LineId)
  /-- QUIET_TIMER_EXPIRY (R23). -/
  | quietTimerExpiry (line : LineId)
  /-- JAM_LIMIT_EXPIRY (R24). -/
  | jamLimitExpiry (line : LineId)
  /-- LEAD_TIMER_EXPIRY (R25). -/
  | leadTimerExpiry (line : LineId)
  /-- CHARACTER_SENT (R26): the last stop bit of the character in transmission ends. -/
  | characterSent (line : LineId)
  /-- TRAIL_TIMER_EXPIRY (R28). -/
  | trailTimerExpiry (line : LineId)
  /-- RESPONSE_TIMER_EXPIRY (R29). -/
  | responseTimerExpiry (line : LineId)
  /-- BACKOFF_TIMER_EXPIRY (R33). -/
  | backoffTimerExpiry (line : LineId)
  /-- CYCLE_START (R94): the line's cycle timer expires. -/
  | cycleStart (line : LineId)
  /-- RXN_LEVEL_CHANGE (R23): the line's receive input takes the level `high`. -/
  | rxnLevelChange (line : LineId) (high : Bool)
  /-- FALSE_START (R3): the half-bit sample after a falling edge finds RXn high. -/
  | falseStart (line : LineId)
  deriving DecidableEq, Repr

end Sys2Proof
end

