-- ==== Sys2Proof/Config.lean ====
section
/-! DEFINITION. What the manual fixes for every PL4 (depths, codes, limits) and the one value it leaves open: which of two
events that come together is taken first. -/

namespace Sys2Proof.Config

/-- The start-of-frame character, C3h (R5). -/
def sof : Byte := 0xC3#8

/-- The function code of an EVENT FETCH, 7Eh (R8). -/
def eventFetchFunction : Byte := 0x7E#8

/-- The function code of a SYNC, 00h (R8). -/
def syncFunction : Byte := 0x00#8

/-- A line's prefetch queue holds up to 4 request records (R109). -/
def prefetchDepth : Nat := 4

/-- A line's follow-up queue holds at most 8 entries (R110). -/
def followUpDepth : Nat := 8

/-- The holding queue holds up to 16 completions (R151). -/
def holdingDepth : Nat := 16

/-- One capture reservation is 144 bytes (R122). -/
def reservationBytes : Nat := 144

/-- QUIET lasts at most 255 character times (R24). -/
def jamCharacters : Nat := 255

/-- A burst covers at most 64 bytes and crosses no 64-byte boundary (R185). -/
def burstBytes : Nat := 64

/-- A bulk write is cut into segments of 64 bytes (R17). -/
def segmentBytes : Nat := 64

/-- The largest value of a saturating 16-bit counter (R38, R74, R89). -/
def counterMax : Nat := 65535

/-- The part code the IDENT register reads (R174). -/
def partCode : BitVec 16 := 0x5034#16

/-- The revision the IDENT register reads (R174). -/
def revision : Byte := 1#8

/-- THE FREE VALUE. The manual says of some events that they can come together and that either may be taken first (R118, R180,
section 4.12). Where both fall inside ONE command, which comes first is `freeChoice` of the model's own counter `State.free`.
It has no body: nothing can be proved of its values (log entry 13). -/
opaque freeChoice : Nat → Nat

end Sys2Proof.Config
end

