-- ==== Sys2Proof/Machine/State.lean ====
section
/-! DEFINITION. The state of the PL4, block by block (section 0.3): every register, queue, counter, flag, timer and pin the
manual gives the part, the queue of commands that wait, the reasons a step can stop, and the state after power-on reset. -/

namespace Sys2Proof.Machine

/-! ## Names the manual gives to states, kinds and codes -/

/-- Parity setting of a line (R1, R18). -/
inductive Parity where
  | none | even | odd
  deriving DecidableEq, Repr

/-- The eleven states of a Line Engine (R19). -/
inductive Engine where
  | off | idle | quiet | lead | send | trail | await | receive | backoff | deliver | completeWait
  deriving DecidableEq, Repr

/-- The two modes of STOP LINE (R40, R41). -/
inductive StopMode where
  | drain | cut
  deriving DecidableEq, Repr

/-- The four failure kinds of an attempt (R47). -/
inductive FailureKind where
  | timeout | checkError | frameError | contention
  deriving DecidableEq, Repr

/-- The statuses a completion can carry (R150). -/
inductive Status where
  | ok | okSent | timeout | checkError | frameError | refused | busyLimit | stationOffline | stationHeld | noStation
  | truncated | busError | aborted | contention | malformed | segmentLimit | overrun
  | done | badCommand | badArgument | noSpace | inUse | notFound | wrongState | duplicateAddress | adminBusError
  | stationNotice
  deriving DecidableEq, Repr

/-- The kinds of a completion (R149). -/
inductive CompletionKind where
  | request | admin | poll | notice
  deriving DecidableEq, Repr

/-- The six states of a station entry (R68). -/
inductive StationState where
  | absent | probing | online | suspect | offline | held
  deriving DecidableEq, Repr

/-- The pending flag of a station entry (R66). -/
inductive PendingCommand where
  | clear | hold | remove
  deriving DecidableEq, Repr

/-- The states of a poll entry (R89, R92). -/
inductive PollState where
  | free | idle | due | inFlight | deleting
  deriving DecidableEq, Repr

/-- The report modes of a poll entry (R89, R105). -/
inductive ReportMode where
  | never | always | onChange | onError
  deriving DecidableEq, Repr

/-- The two capture modes (R120). -/
inductive CaptureMode where
  | hold | loop
  deriving DecidableEq, Repr

/-- The six device states (R177). -/
inductive DeviceState where
  | unconfigured | loading | running | halting | halted | faulted
  deriving DecidableEq, Repr

/-- The fault causes STATUS shows (R176). -/
inductive FaultCause where
  | none | contextInvalid | contextBusError | shadowBusError | completionBusError
  deriving DecidableEq, Repr

/-- The last reset cause STATUS shows (R176). -/
inductive ResetCause where
  | powerOn | function
  deriving DecidableEq, Repr

/-- The state of a ring 0..4 (R138). -/
inductive RingState where
  | notLoaded | active | faulted
  deriving DecidableEq, Repr

/-- The causes of a ring fault (R141). -/
inductive RingFaultCause where
  | none | badProducer | badNotify | fetchError | badRelease
  deriving DecidableEq, Repr

/-- The kinds of a follow-up entry (R108). -/
inductive FollowKind where
  | eventFetch | probe
  deriving DecidableEq, Repr

/-- The sources of an exchange (R44). -/
inductive Source where
  | request | poll | eventFetch | probe | broadcast
  deriving DecidableEq, Repr

/-- The state of a line's cycle timer (R94): stopped, running with a period in units of 100 µs, or frozen. -/
inductive CycleTimer where
  | stopped
  | running (period : Nat)
  | frozen
  deriving DecidableEq, Repr

/-- The response timer (R29, R30, R32): stopped, running (its length in bit times), or expired with the expiry held in AWAIT or
noted in RECEIVE. -/
inductive ResponseTimer where
  | stopped
  | running (bits : Nat)
  | expired
  deriving DecidableEq, Repr

/-- What a line's receiver is doing (R3, R4, R20). -/
inductive RxPhase where
  /-- the line is OFF: no characters are formed -/
  | notForming
  /-- the line is low: no start edge can be detected until it has gone high -/
  | waitHigh
  /-- waiting for a falling edge while the line is high -/
  | waitEdge
  /-- a start-bit edge has come and its character has not yet been handed over -/
  | inCharacter
  /-- a character with a framing error has been handed over and the line is still low: a break may follow -/
  | lowAfterCharacter
  /-- a break has been reported: the line has not yet returned high -/
  | breakHeld
  deriving DecidableEq, Repr

/-! ## Records -/

/-- The twelve settings of a line (R18). -/
structure LineConfig where
  /-- divisor, 8..65535 (R2) -/
  divisor : Nat
  parity : Parity
  /-- stop bits, 1 or 2 -/
  stopBits : Nat
  /-- lead delay in bit times -/
  leadDelay : Nat
  /-- trail delay in bit times -/
  trailDelay : Nat
  /-- quiet gap in bit times -/
  quietGap : Nat
  /-- inter-character limit in bit times -/
  interCharacterLimit : Nat
  echoCheck : Bool
  /-- busy limit, in BUSY replies of one exchange -/
  busyLimit : Nat
  /-- busy backoff in character times -/
  busyBackoff : Nat
  /-- cycle period in units of 100 µs -/
  cyclePeriod : Nat
  /-- one-shot share K -/
  oneShotShare : Nat
  deriving DecidableEq, Repr

/-- A request record, copied whole at its take (R144, R192). -/
structure Request where
  tag : Word
  urgent : Bool
  broadcast : Bool
  bulkRead : Bool
  bulkWrite : Bool
  inlinePayload : Bool
  force : Bool
  address : BitVec 7
  function : Byte
  maxSegments : Nat
  payloadLength : Nat
  responseCapacity : Nat
  /-- the 16 bytes of the payload area -/
  payloadArea : List Byte
  responseAddress : Word
  deriving DecidableEq, Repr

/-- A follow-up entry (R108). -/
structure FollowUp where
  kind : FollowKind
  slot : SlotId
  deriving DecidableEq, Repr

/-- The work an exchange came from (R44): a prefetch entry, a poll entry, or a follow-up entry's station slot. -/
inductive Origin where
  | request (r : Request)
  | poll (id : PollId)
  | followUp (slot : SlotId)
  deriving DecidableEq, Repr

/-- Where the payload of an exchange comes from (R44). -/
inductive PayloadSource where
  | none
  | inlineBytes (bytes : List Byte)
  | host (address : Word) (length : Nat)
  | template (bytes : List Byte)
  deriving DecidableEq, Repr

/-- Where the response data of an exchange goes (R44, R45). -/
inductive Destination where
  | none
  | buffer (address : Word) (capacity : Nat)
  | pollSlot
  | staging
  deriving DecidableEq, Repr

/-- The exchange record (R44). -/
structure Exchange where
  source : Source
  origin : Origin
  /-- the station slot; absent for BROADCAST -/
  station : Option SlotId
  /-- the station's address; 0 for BROADCAST -/
  address : BitVec 7
  /-- the function code; none for PROBE -/
  function : Option Byte
  /-- response timeout in character times, copied at dispatch -/
  responseTimeout : Nat
  /-- retry limit, copied at dispatch -/
  retryLimit : Nat
  payload : PayloadSource
  destination : Destination
  maxSegments : Nat
  attemptsUsed : Nat
  attemptsTotal : Nat
  busyCount : Nat
  segmentsDone : Nat
  delivered : Nat
  residue : Nat
  firstFailure : Option FailureKind
  lastFailure : Option FailureKind
  frameSent : Bool
  /-- the ending status, once step 1 of the exchange end has been entered -/
  status : Option Status
  detail : Byte
  /-- the code of the station's state after step 1 of the exchange end, which the claim of step 3 carries (R65, R106) -/
  stationState : BitVec 3
  /-- the payload of the accepted REPLY a POLL exchange hands to the Poll Schedule (R57, R101) -/
  reply : Option (List Byte)
  deriving DecidableEq, Repr

/-- The frame the engine holds prepared (R21, R47): what R5 to R9 let vary in a frame the PL4 sends. -/
structure Frame where
  /-- the frame is a SYNC; otherwise a REQUEST -/
  sync : Bool
  toggle : Bool
  more : Bool
  function : Byte
  payload : List Byte
  deriving DecidableEq, Repr

/-- The writes of a slot delivery, in order (R102). -/
inductive SlotWrite where
  | oddGeneration | data | header | evenGeneration
  deriving DecidableEq, Repr

/-- What follows a response write (R57, R58). -/
inductive AfterWrite where
  | finish (status : Status)
  | continueRead
  deriving DecidableEq, Repr

/-- What the line's data mover carries in DELIVER (R34, R61). -/
inductive MoverJob where
  /-- reading a payload: next address, bytes still to read, bytes read so far -/
  | payloadRead (address : Word) (remaining : Nat) (bytes : List Byte)
  /-- writing accepted reply data: next address, bytes still to write, what follows -/
  | responseWrite (address : Word) (bytes : List Byte) (next : AfterWrite)
  /-- delivering a poll response slot: the write under way, the status and data to deliver, the bytes of write 2 already
  written, and the stamp fixed when write 1 began -/
  | slotWrite (write : SlotWrite) (status : Status) (data : List Byte) (done : Nat) (stamp : Word)
  deriving DecidableEq, Repr

/-- A completion as it waits in the holding queue or in a claim (R149, all fields but the phase). -/
structure Completion where
  tag : Word
  status : Status
  detail : Byte
  kind : CompletionKind
  /-- the station state code of R149 -/
  stationState : BitVec 3
  origin : Byte
  attempts : Nat
  segments : Nat
  delivered : Nat
  residue : Nat
  stamp : Half
  deriving DecidableEq, Repr

/-- The timers of a Line Engine; `none` is stopped, `some n` is running with the length n in bit times. -/
structure Timers where
  /-- quiet timer (R23) -/
  quiet : Option Nat
  /-- jam limit (R24) -/
  jam : Option Nat
  /-- lead timer (R25) -/
  lead : Option Nat
  /-- trail timer (R28) -/
  trail : Option Nat
  /-- backoff timer (R33) -/
  backoff : Option Nat
  /-- inter-character limit (R12, R22) -/
  gap : Option Nat
  /-- response timer (R29) -/
  response : ResponseTimer
  deriving DecidableEq, Repr

/-- The counters of a line (R38). -/
structure LineCounters where
  /-- cycle number, 32 bits, wrapping -/
  cycle : Word
  overruns : Nat
  jams : Nat
  breaks : Nat
  strayCharacters : Nat
  strayFrames : Nat
  noiseCharacters : Nat
  contentions : Nat
  deriving DecidableEq, Repr

/-- One line: Line Engine, its receiver and data mover, Line Arbiter, prefetch queue, poll list and cycle timer. -/
structure Line where
  config : LineConfig
  engine : Engine
  /-- the STOPPING state and the mode of the STOP LINE that set it (R39) -/
  stopping : Option StopMode
  /-- the level of the receive input RXn -/
  rxHigh : Bool
  rxPhase : RxPhase
  /-- RXn has been low ever since the start-bit edge of the last character begun (R4) -/
  lowSinceEdge : Bool
  exchange : Option Exchange
  /-- the prepared frame -/
  frame : Option Frame
  /-- the frame in hand is a resend after a BUSY reply (R46, R49) -/
  resend : Bool
  /-- the attempt in hand has been counted (R46) -/
  counted : Bool
  /-- SEND: the characters whose transmission has ended -/
  sentCount : Nat
  /-- SEND: the character in transmission on TXn -/
  txCharacter : Option Byte
  /-- SEND: the transmitted character still awaiting its echo (R27) -/
  echoPending : Option Byte
  /-- the attempt is marked failed with CONTENTION (R27) -/
  mismatch : Bool
  /-- the exchange is being cut (R41, R43) -/
  cutting : Bool
  /-- RECEIVE: the characters of the frame being collected (R31) -/
  received : List Byte
  /-- IDLE: the characters of the stray frame candidate (R22) -/
  candidate : List Byte
  /-- DELIVER: what the data mover carries -/
  job : Option MoverJob
  /-- COMPLETE_WAIT: the claim that waits (R35) -/
  claim : Option Completion
  timers : Timers
  cycleTimer : CycleTimer
  counters : LineCounters
  breakFlag : Bool
  /-- event latch: cause jam (R37) -/
  eventJam : Bool
  /-- event latch: cause break (R37) -/
  eventBreak : Bool
  /-- event latch: cause overrun (R37) -/
  eventOverrun : Bool
  /-- the share counter (R108) -/
  share : Nat
  /-- the follow-up queue, head first (R108) -/
  followUp : List FollowUp
  /-- the prefetch queue, oldest first (R109) -/
  prefetched : List Request
  /-- the line's ordered poll list (R91) -/
  pollList : List PollId
  deriving DecidableEq, Repr

/-- A station entry (R66). -/
structure Station where
  state : StationState
  line : LineId
  address : BitVec 7
  responseTimeout : Nat
  retryLimit : Nat
  threshold : Nat
  reprobeInterval : Nat
  captureEnable : Bool
  toggle : Bool
  resync : Bool
  failures : Nat
  reprobe : Nat
  eventPending : Bool
  notice : Bool
  busy : Bool
  pending : PendingCommand
  good : Nat
  failed : Nat
  deriving DecidableEq, Repr

/-- A poll entry (R89). Its list position is its place in its line's `pollList`. -/
structure Poll where
  state : PollState
  line : LineId
  station : SlotId
  function : Byte
  template : List Byte
  slotAddress : Word
  capacity : Nat
  divisor : Nat
  phase : Nat
  mode : ReportMode
  lastStatus : Option Status
  lastSignature : Option Half
  generation : Word
  slotFault : Bool
  skipped : Nat
  dueAgain : Bool
  deriving DecidableEq, Repr

/-- The capture region's configuration while the unit is enabled (R120). -/
structure CaptureConfig where
  base : Word
  size : Nat
  mode : CaptureMode
  stopMark : Nat
  resumeMark : Nat
  deriving DecidableEq, Repr

/-- An event frame in a line's staging (R127). -/
structure Staged where
  payload : List Byte
  address : BitVec 7
  deriving DecidableEq, Repr

/-- A placed record in the write queue (R128, R130). -/
structure Placed where
  line : LineId
  /-- the PAD placed before the record: its offset and length -/
  pad : Option (Nat × Nat)
  /-- the PAD's header has been written -/
  padWritten : Bool
  /-- the record's offset -/
  offset : Nat
  /-- the record's bytes, fixed at placement (R129) -/
  bytes : List Byte
  /-- the record's bytes already written -/
  written : Nat
  deriving DecidableEq, Repr

/-- The Capture Unit (R120, R121). -/
structure Capture where
  /-- the configuration; none while the unit is disabled -/
  config : Option CaptureConfig
  writeOffset : Nat
  placeOffset : Nat
  releaseOffset : Nat
  unreleased : Nat
  reserved : Nat
  lapCount : Half
  paused : Bool
  fault : Bool
  badRelease : Bool
  lost : Bool
  reconfig : Bool
  staging : Vector (Option Staged) 4
  writeQueue : List Placed
  /-- the place offset has come to 0 by a record ending at the region end (R129) -/
  placeWrapped : Bool
  deriving DecidableEq, Repr

/-- A ring 0..4 as the Ring Unit holds it (R137, R139). -/
structure Ring where
  base : Word
  /-- size in records; 0 while no ring is loaded -/
  size : Nat
  state : RingState
  consumer : Half
  accepted : Half
  deriving DecidableEq, Repr

/-- The Ring Unit (sections 8.1 to 8.5). -/
structure RingUnit where
  rings : Vector Ring 5
  shadowAddress : Word
  /-- the shadow area is marked for writing (R142) -/
  shadowMarked : Bool
  /-- the second half of a shadow copy that crosses a 64-byte boundary, still to be written -/
  shadowRest : Option (List Byte)
  faultCause : RingFaultCause
  /-- the ring id of the last ring fault, 0..15 -/
  faultRing : BitVec 4
  /-- the count of ring faults, 8 bits, wrapping -/
  faultCount : Byte
  /-- the ring at which the next round-robin search for an eligible ring begins (R143) -/
  fetchNext : RingId
  /-- the outstanding request of the ring-fetch requester: the ring it will fetch from (R143, R185) -/
  requested : Option RingId
  /-- the record of the fetch under way will not be taken (R147) -/
  fetchVoid : Bool
  /-- the waiting MALFORMED claim: the line of the ring and the completion (R146) -/
  claim : Option (LineId × Completion)
  deriving DecidableEq, Repr

/-- The Completion Writer and the completion ring (R138, R151, R152, R184). -/
structure CompletionWriter where
  base : Word
  /-- size in records; 0 while the ring is not loaded -/
  size : Nat
  producer : Half
  released : Half
  phase : Bool
  /-- the holding queue, head first -/
  holding : List Completion
  /-- the round-robin pointer of the holding queue: claimants 0..3 the lines, 4 the Admin Processor, 5 the Ring Unit,
  6 the notice scanner -/
  pointer : Fin 7
  moderationCount : Nat
  /-- the holdoff timer in units of 10 µs; none is stopped -/
  holdoffTimer : Option Nat
  /-- MODERATION register: threshold -/
  threshold : Byte
  /-- MODERATION register: holdoff -/
  holdoff : Half
  /-- the slot at which the notice scanner's next search begins (R81) -/
  noticeNext : SlotId
  deriving DecidableEq, Repr

/-- The checked arguments of DEFINE POLL, with the id it will fill (R169). -/
structure PollArguments where
  id : PollId
  line : LineId
  station : SlotId
  function : Byte
  template : List Byte
  slotAddress : Word
  capacity : Nat
  divisor : Nat
  phase : Nat
  mode : ReportMode
  /-- none appends; some B places before entry B -/
  before : Option PollId
  deriving DecidableEq, Repr

/-- What a line record showed of the line's reported events (R171). -/
structure LineShown where
  jam : Bool
  breakCause : Bool
  overrun : Bool
  breakFlag : Bool
  deriving DecidableEq, Repr

/-- A command whose data write is under way (R155, WRITING). The `Option` is what was read at the bus grant. -/
inductive AdminWrite where
  | readStation (slot : SlotId) (address : Word) (shown : Option StationState)
  | readLine (line : LineId) (address : Word) (shown : Option LineShown)
  | definePoll (arguments : PollArguments)
  deriving DecidableEq, Repr

/-- A command that waits for its condition (R155, DEFERRED; R158). -/
inductive AdminWait where
  | stopLine (line : LineId)
  | holdStation (slot : SlotId)
  | removeStation (slot : SlotId)
  | deletePoll (id : PollId)
  | setCapture (config : Option CaptureConfig)
  deriving DecidableEq, Repr

/-- The Admin Processor: its progress, with the current command it holds (R155). -/
inductive Admin where
  | idle
  | writing (tag : Half) (write : AdminWrite)
  | deferred (tag : Half) (wait : AdminWait)
  | claiming (completion : Completion)
  deriving DecidableEq, Repr

/-- The requester that holds a burst (R185). -/
inductive Requester where
  | contextLoader
  | ringFetch (ring : RingId)
  | shadowWriter
  | completionWriter
  | dataMover (line : LineId)
  | captureWriter
  | adminWriter
  deriving DecidableEq, Repr

/-- The burst in progress on the host bus: who holds it, where it begins, how many bytes it covers, and the bytes it writes
(none for a read). -/
structure Burst where
  owner : Requester
  address : Word
  length : Nat
  data : Option (List Byte)
  deriving DecidableEq, Repr

/-- The Host Bus Interface: device control, attention, the register window's own registers and the bus-master arbiter
(chapter 10). -/
structure Hbi where
  device : DeviceState
  /-- CONTROL: ENABLE as last written -/
  enable : Bool
  /-- CONTROL: IRQ_ENABLE as last written -/
  irqEnable : Bool
  faultCause : FaultCause
  lastReset : ResetCause
  /-- the ATTENTION register -/
  attention : BitVec 7
  /-- the ATTENTION MASK register -/
  mask : BitVec 7
  /-- the CONTEXT ADDRESS register -/
  contextAddress : Word
  burst : Option Burst
  /-- the bus-master arbiter's pointer, an index in the order of R185 -/
  busPointer : Fin 10
  /-- a reset in its step 1, with the cause it will record (R181) -/
  resetting : Option ResetCause
  /-- register writes held during step 1 of a reset, oldest first (R181) -/
  held : List Instr
  deriving DecidableEq, Repr

/-- THE STATE. `free` and `pending` are the model's own: the counter the free value is read at, and the queue of commands. -/
structure State where
  hbi : Hbi
  ringUnit : RingUnit
  writer : CompletionWriter
  admin : Admin
  stations : Vector Station 128
  polls : Vector Poll 96
  lines : Vector Line 4
  capture : Capture
  /-- the model's own: how often the free value has been read -/
  free : Nat
  /-- the commands that wait, first in, first out -/
  pending : List Instr
  deriving DecidableEq, Repr

/-! ## Reasons to stop -/

/-- The faults of the machine. There is none: the manual gives every command of the table an effect in every state (where the
command's event cannot occur the state stays as it is, log entry 1). Safe: no run ends in a fault. -/
inductive Fault where
  deriving DecidableEq, Repr

/-- The refusals of the machine. -/
inductive Refusal where
  /-- Raised by `exec` alone, for a command that has no meaning yet. Safe: the run stops. No arm raises it at present. -/
  | notModelled (mnemonic : String)
  deriving DecidableEq, Repr

/-! ## Reset values -/

/-- The reset defaults of a line's settings (R18). -/
def LineConfig.default : LineConfig where
  divisor := 2500
  parity := .none
  stopBits := 1
  leadDelay := 1
  trailDelay := 1
  quietGap := 20
  interCharacterLimit := 20
  echoCheck := false
  busyLimit := 3
  busyBackoff := 10
  cyclePeriod := 1000
  oneShotShare := 4

/-- All timers of an engine stopped. -/
def Timers.stopped : Timers where
  quiet := none
  jam := none
  lead := none
  trail := none
  backoff := none
  gap := none
  response := .stopped

/-- All counters of a line zero (R38). -/
def LineCounters.zero : LineCounters where
  cycle := 0
  overruns := 0
  jams := 0
  breaks := 0
  strayCharacters := 0
  strayFrames := 0
  noiseCharacters := 0
  contentions := 0

/-- A line after reset (R18, R38, R43, R44, R90, R94, R108, R138). The level of RXn is the outside's: high is a DESIGN CHOICE (log
entry 9). -/
def Line.reset : Line where
  config := .default
  engine := .off
  stopping := none
  rxHigh := true
  rxPhase := .notForming
  lowSinceEdge := false
  exchange := none
  frame := none
  resend := false
  counted := false
  sentCount := 0
  txCharacter := none
  echoPending := none
  mismatch := false
  cutting := false
  received := []
  candidate := []
  job := none
  claim := none
  timers := .stopped
  cycleTimer := .stopped
  counters := .zero
  breakFlag := false
  eventJam := false
  eventBreak := false
  eventOverrun := false
  share := 0
  followUp := []
  prefetched := []
  pollList := []

/-- A station entry after reset and after REMOVE STATION: ABSENT and every field zero (R67). -/
def Station.absent : Station where
  state := .absent
  line := 0
  address := 0
  responseTimeout := 0
  retryLimit := 0
  threshold := 0
  reprobeInterval := 0
  captureEnable := false
  toggle := false
  resync := false
  failures := 0
  reprobe := 0
  eventPending := false
  notice := false
  busy := false
  pending := .clear
  good := 0
  failed := 0

/-- A poll entry after reset and when freed: FREE and every field zero or absent (R90). -/
def Poll.free : Poll where
  state := .free
  line := 0
  station := 0
  function := 0
  template := []
  slotAddress := 0
  capacity := 0
  divisor := 0
  phase := 0
  mode := .never
  lastStatus := none
  lastSignature := none
  generation := 0
  slotFault := false
  skipped := 0
  dueAgain := false

/-- The Capture Unit after reset: disabled, every item 0, clear or empty (R120). -/
def Capture.reset : Capture where
  config := none
  writeOffset := 0
  placeOffset := 0
  releaseOffset := 0
  unreleased := 0
  reserved := 0
  lapCount := 0
  paused := false
  fault := false
  badRelease := false
  lost := false
  reconfig := false
  staging := Vector.replicate 4 none
  writeQueue := []
  placeWrapped := false

/-- A ring while no ring is loaded (R138). -/
def Ring.notLoaded : Ring where
  base := 0
  size := 0
  state := .notLoaded
  consumer := 0
  accepted := 0

/-- The Ring Unit after reset (R138, R143). -/
def RingUnit.reset : RingUnit where
  rings := Vector.replicate 5 .notLoaded
  shadowAddress := 0
  shadowMarked := false
  shadowRest := none
  faultCause := .none
  faultRing := 0
  faultCount := 0
  fetchNext := 0
  requested := none
  fetchVoid := false
  claim := none

/-- The Completion Writer after reset (R81, R138, R184). -/
def CompletionWriter.reset : CompletionWriter where
  base := 0
  size := 0
  producer := 0
  released := 0
  phase := true
  holding := []
  pointer := 0
  moderationCount := 0
  holdoffTimer := none
  threshold := 0
  holdoff := 0
  noticeNext := 0

/-- The Host Bus Interface after a reset of the given cause (R174, R176, R181, R185). -/
def Hbi.reset (cause : ResetCause) : Hbi where
  device := .unconfigured
  enable := false
  irqEnable := false
  faultCause := .none
  lastReset := cause
  attention := 0
  mask := 0
  contextAddress := 0
  burst := none
  busPointer := 0
  resetting := none
  held := []

/-- The machine right after power-on reset (R181): every block at its reset values and no command waiting. -/
def State.reset : State where
  hbi := .reset .powerOn
  ringUnit := .reset
  writer := .reset
  admin := .idle
  stations := Vector.replicate 128 .absent
  polls := Vector.replicate 96 .free
  lines := Vector.replicate 4 .reset
  capture := .reset
  free := 0
  pending := []

end Sys2Proof.Machine
end

