-- ==== Sys2Proof/Machine/Formats.lean ====
section
/-! DEFINITION. The byte layouts the PL4 writes and the frames it sends (chapters 1 and 12), the check of R10, and the codes the
manual gives to names. -/

namespace Sys2Proof.Machine

/-! ## Bytes and counters -/

/-- A counter described as saturating stops at its largest value (section 0.6, Counters). -/
def satSucc (cap n : Nat) : Nat := if n < cap then n + 1 else cap

/-- One bit as a number. -/
def bitOf (b : Bool) : Nat := if b then 1 else 0

/-- The two bytes of a 16-bit value, little-endian (section 0.6, Byte order). -/
def le16 (h : Half) : List Byte := [h.extractLsb' 0 8, h.extractLsb' 8 8]

/-- The four bytes of a 32-bit value, little-endian. -/
def le32 (w : Word) : List Byte := [w.extractLsb' 0 8, w.extractLsb' 8 8, w.extractLsb' 16 8, w.extractLsb' 24 8]

/-- A 16-bit value from its bytes, low byte first. -/
def ofLe16 (b0 b1 : Byte) : Half := b1 ++ b0

/-- A 32-bit value from its bytes, low byte first. -/
def ofLe32 (b0 b1 b2 b3 : Byte) : Word := b3 ++ b2 ++ b1 ++ b0

/-- n zero bytes. -/
def zeros (n : Nat) : List Byte := List.replicate n 0#8

/-- A count as a byte field. -/
def byteOf (n : Nat) : Byte := BitVec.ofNat 8 n

/-- A count as a 16-bit field. -/
def halfOf (n : Nat) : Half := BitVec.ofNat 16 n

/-- The stamp of a completion: the low 16 bits of a cycle number (R149). -/
def stampOf (cycle : Word) : Half := cycle.extractLsb' 0 16

/-! ## The check of R10 -/

/-- One bit through the check register: polynomial 1021h, no reflection. -/
def crcBit (crc : Half) (b : Bool) : Half :=
  if crc.msb != b then (crc <<< 1) ^^^ 0x1021#16 else crc <<< 1

/-- One byte through the check register, most-significant bit first. -/
def crcByte (crc : Half) (b : Byte) : Half :=
  [7, 6, 5, 4, 3, 2, 1, 0].foldl (fun c i => crcBit c (b.getLsbD i)) crc

/-- The check over a run of bytes, beginning from FFFFh, with no final inversion (R10). -/
def crc16 (bytes : List Byte) : Half := bytes.foldl crcByte 0xFFFF#16

/-! ## Characters and frames -/

/-- The bits of a character on the line (R1): 10, 11 or 12. -/
def LineConfig.characterBits (c : LineConfig) : Nat :=
  9 + (if c.parity = .none then 0 else 1) + c.stopBits

/-- The parity bit of a byte under a parity setting (R1). -/
def parityBit (p : Parity) (b : Byte) : List Bool :=
  let odd := [0, 1, 2, 3, 4, 5, 6, 7].foldl (fun a i => a != b.getLsbD i) false
  match p with
  | .none => []
  | .even => [odd]
  | .odd => [!odd]

/-- The levels of TXn during one character, one a bit time: start bit, data bits least-significant first, parity bit, stop bits (R1). -/
def LineConfig.characterLevels (c : LineConfig) (b : Byte) : List Bool :=
  false :: ([0, 1, 2, 3, 4, 5, 6, 7].map b.getLsbD ++ parityBit c.parity b ++ List.replicate c.stopBits true)

/-- The byte a receiver assembles from its eight data samples, the first sample the least-significant bit (R3). -/
def receivedByte (bits : Vector Bool 8) : Byte := BitVec.ofNat 8 (bits.toList.foldr (fun b acc => bitOf b + 2 * acc) 0)

/-- A sampled parity bit does not satisfy the rule of R1 (R3); with parity none none is sampled. -/
def parityFails (p : Parity) (value : Byte) (sampled : Bool) : Bool := (parityBit p value).any (· != sampled)

/-- The CONTROL byte of a frame the PL4 sends (R7, R191): event-pending and bits 7 and 6 are 0. -/
def Frame.control (f : Frame) : Byte :=
  BitVec.ofNat 8 (bitOf f.sync + 8 * bitOf f.toggle + 16 * bitOf f.more)

/-- ADDRESS through the last PAYLOAD byte of a frame from master to station (R5, R6, R191). -/
def Frame.covered (f : Frame) (address : BitVec 7) : List Byte :=
  address.setWidth 8 :: f.control :: f.function :: byteOf f.payload.length :: f.payload

/-- All characters of a frame the PL4 sends, SOF first, CHECK high byte first (R5, R10, R191). -/
def Frame.characters (f : Frame) (address : BitVec 7) : List Byte :=
  let body := f.covered address
  let check := crc16 body
  Config.sof :: (body ++ [check.extractLsb' 8 8, check.extractLsb' 0 8])

/-! ## Codes -/

/-- The code of a status (R150). -/
def Status.code : Status → Byte
  | .ok => 0 | .okSent => 1 | .timeout => 2 | .checkError => 3 | .frameError => 4 | .refused => 5 | .busyLimit => 6
  | .stationOffline => 7 | .stationHeld => 8 | .noStation => 9 | .truncated => 10 | .busError => 11 | .aborted => 12
  | .contention => 13 | .malformed => 14 | .segmentLimit => 15 | .overrun => 16
  | .done => 32 | .badCommand => 33 | .badArgument => 34 | .noSpace => 35 | .inUse => 36 | .notFound => 37
  | .wrongState => 38 | .duplicateAddress => 39 | .adminBusError => 40 | .stationNotice => 48

/-- The status value NONE of a fresh slot header (R93, R150). -/
def statusNone : Byte := 0xFF#8

/-- The status an exchange ends with when its budget is exhausted by this kind (R47). -/
def FailureKind.status : FailureKind → Status
  | .timeout => .timeout
  | .checkError => .checkError
  | .frameError => .frameError
  | .contention => .contention

/-- The code of a completion kind (R149). -/
def CompletionKind.code : CompletionKind → BitVec 2
  | .request => 0 | .admin => 1 | .poll => 2 | .notice => 3

/-- The code of a station state (R149). -/
def StationState.code : StationState → BitVec 3
  | .absent => 0 | .probing => 1 | .online => 2 | .suspect => 3 | .offline => 4 | .held => 5

/-- The station state code "no station" (R149). -/
def noStationCode : BitVec 3 := 7

/-- The code of an engine state in the line record (R195). -/
def Engine.code : Engine → Byte
  | .off => 0 | .idle => 1 | .quiet => 2 | .lead => 3 | .send => 4 | .trail => 5 | .await => 6 | .receive => 7
  | .backoff => 8 | .deliver => 9 | .completeWait => 10

/-- The code of a device state in STATUS (R200). -/
def DeviceState.code : DeviceState → BitVec 3
  | .unconfigured => 0 | .loading => 1 | .running => 2 | .halting => 3 | .halted => 4 | .faulted => 5

/-- The code of a fault cause in STATUS (R200). -/
def FaultCause.code : FaultCause → BitVec 3
  | .none => 0 | .contextInvalid => 1 | .contextBusError => 2 | .shadowBusError => 3 | .completionBusError => 4

/-- The code of a ring fault cause (R199). -/
def RingFaultCause.code : RingFaultCause → Byte
  | .none => 0 | .badProducer => 1 | .badNotify => 2 | .fetchError => 3 | .badRelease => 4

/-! ## Records the PL4 writes -/

/-- A completion record of 16 bytes (R194). -/
def Completion.bytes (c : Completion) (phase : Bool) : List Byte :=
  le32 c.tag ++
  [c.status.code, c.detail,
   BitVec.ofNat 8 (c.kind.code.toNat + 4 * c.stationState.toNat + 128 * bitOf phase), c.origin] ++
  le16 (halfOf (c.attempts + 16 * c.segments)) ++ le16 (halfOf c.delivered) ++ le16 (halfOf c.residue) ++ le16 c.stamp

/-- The station record of 32 bytes (R88, R195). -/
def Station.record (st : Station) : List Byte :=
  [st.state.code.setWidth 8, byteOf st.line.val, st.address.setWidth 8, byteOf st.responseTimeout, byteOf st.retryLimit,
   byteOf st.threshold, byteOf st.reprobeInterval,
   BitVec.ofNat 8 (bitOf st.captureEnable + 2 * bitOf st.toggle + 4 * bitOf st.resync + 8 * bitOf st.eventPending +
     16 * bitOf st.notice + 32 * bitOf st.busy),
   byteOf st.failures, byteOf st.reprobe] ++
  le16 (halfOf st.good) ++ le16 (halfOf st.failed) ++ zeros 18

/-- The line record of 32 bytes (R171, R195). -/
def Line.record (l : Line) (ringFaulted : Bool) : List Byte :=
  [l.engine.code,
   BitVec.ofNat 8 (bitOf l.stopping.isSome + 2 * bitOf l.breakFlag + 4 * bitOf l.eventJam + 8 * bitOf l.eventBreak +
     16 * bitOf l.eventOverrun + 32 * bitOf ringFaulted),
   byteOf l.prefetched.length, byteOf l.followUp.length] ++
  le32 l.counters.cycle ++ le16 (halfOf l.counters.overruns) ++ le16 (halfOf l.counters.jams) ++
  le16 (halfOf l.counters.breaks) ++ le16 (halfOf l.counters.strayCharacters) ++ le16 (halfOf l.counters.strayFrames) ++
  le16 (halfOf l.counters.noiseCharacters) ++ le16 (halfOf l.counters.contentions) ++ [byteOf l.share] ++ zeros 9

/-- Offsets 4 to 15 of a response slot header (R196). -/
def slotHeaderRest (status : Byte) (length skipped : Nat) (stamp : Word) : List Byte :=
  [status, byteOf length] ++ le16 (halfOf skipped) ++ le32 stamp ++ zeros 4

/-- The slot header DEFINE POLL writes: generation 0, status NONE, length 0, skipped 0, stamp 0 (R93). -/
def freshSlotHeader : List Byte := le32 0 ++ slotHeaderRest statusNone 0 0 0

/-- The bytes of an event record: header, payload and zero padding to a multiple of 4 (R129, R197). -/
def captureRecord (line : LineId) (staged : Staged) (lost : Bool) (stamp : Half) : List Byte :=
  [byteOf staged.payload.length, byteOf line.val, staged.address.setWidth 8, BitVec.ofNat 8 (bitOf lost)] ++
  le16 stamp ++ zeros 2 ++ staged.payload ++ zeros ((4 - staged.payload.length % 4) % 4)

/-- The four header bytes of a PAD record (R129, R197). -/
def padHeader (length : Nat) : List Byte := [byteOf length, 0#8, 0#8, 2#8]

/-- The shadow area of 32 bytes (R142, R199). -/
def RingUnit.shadowArea (u : RingUnit) : List Byte :=
  u.rings.toList.flatMap (fun r => le16 r.consumer) ++
  [BitVec.ofNat 8 (u.rings.toList.foldr (fun r acc => bitOf (r.state = .faulted) + 2 * acc) 0), 0#8,
   u.faultCause.code, u.faultRing.setWidth 8, u.faultCount] ++ zeros 17

end Sys2Proof.Machine
end

