-- ==== Sys2Proof/Machine/Operands.lean ====
section
/-! DEFINITION. What the PL4 reads: request records and their checks (R144, R145, R192), admin records and their argument checks (R156,
R193), and the context block (R137, R198). -/

namespace Sys2Proof.Machine

/-! ## Request records -/

/-- Byte k of a 32-byte record. -/
def recByte (data : Vector Byte 32) (k : Fin 32) : Byte := data[k]

/-- The fields of a request record (R192). -/
def decodeRequest (data : Vector Byte 32) : Request :=
  let flags := recByte data 4
  { tag := ofLe32 (recByte data 0) (recByte data 1) (recByte data 2) (recByte data 3)
    urgent := flags.getLsbD 0
    broadcast := flags.getLsbD 1
    bulkRead := flags.getLsbD 2
    bulkWrite := flags.getLsbD 3
    inlinePayload := flags.getLsbD 4
    force := flags.getLsbD 5
    address := (recByte data 5).setWidth 7
    function := recByte data 6
    maxSegments := (recByte data 7).toNat
    payloadLength := (ofLe16 (recByte data 8) (recByte data 9)).toNat
    responseCapacity := (ofLe16 (recByte data 10) (recByte data 11)).toNat
    payloadArea := (data.toList.drop 12).take 16
    responseAddress := ofLe32 (recByte data 28) (recByte data 29) (recByte data 30) (recByte data 31) }

/-- The payload address of a request without INLINE: bytes 12..15 of the record (R192). -/
def Request.payloadAddress (r : Request) : Word :=
  match r.payloadArea with
  | b0 :: b1 :: b2 :: b3 :: _ => ofLe32 b0 b1 b2 b3
  | _ => 0

/-- A reserved flag bit, the reserved bit of the address byte, or a reserved byte of the payload area without INLINE is nonzero
(R145 check 1, R190, R192). -/
def requestReservedSet (data : Vector Byte 32) : Bool :=
  (recByte data 4).getLsbD 6 || (recByte data 4).getLsbD 7 || (recByte data 5).getLsbD 7 ||
    (!(recByte data 4).getLsbD 4 && ((data.toList.drop 16).take 12).any (· != 0#8))

/-- The function codes a host may use: 01h..6Fh (R8). -/
def hostFunction (f : Byte) : Bool := 1 ≤ f.toNat && f.toNat ≤ 0x6F

/-- The number of the first element that holds, counting from 1. -/
def firstTrue : List Bool → Nat → Option Nat
  | [], _ => none
  | b :: bs, k => if b then some k else firstTrue bs (k + 1)

/-- The eleven checks of R145 in the order of their numbers, each true when the record FAILS it. -/
def requestChecks (data : Vector Byte 32) : List Bool :=
  let r := decodeRequest data
  [ requestReservedSet data,
    !hostFunction r.function,
    (r.address == 0 && !r.broadcast) || (r.address != 0 && r.broadcast) || r.address == 127,
    r.broadcast && (r.responseCapacity != 0 || r.bulkRead || r.bulkWrite),
    r.bulkRead && r.bulkWrite,
    r.inlinePayload && decide (16 < r.payloadLength),
    (decide (64 < r.payloadLength) && !r.bulkWrite) || decide (4096 < r.payloadLength),
    r.maxSegments == 0 || decide (64 < r.maxSegments),
    decide (4096 < r.responseCapacity),
    (!r.inlinePayload && decide (0 < r.payloadLength) && r.payloadAddress.toNat % 4 != 0) ||
      (decide (0 < r.responseCapacity) && r.responseAddress.toNat % 4 != 0),
    r.inlinePayload && r.bulkWrite ]

/-- The number of the first check the record fails, or none for a valid record (R145). -/
def malformedCheck (data : Vector Byte 32) : Option Nat := firstTrue (requestChecks data) 1

/-! ## Admin records -/

/-- The tag of an admin record (R193). -/
def adminTag (data : Vector Byte 32) : Half := ofLe16 (recByte data 0) (recByte data 1)

/-- The command code of an admin record (R193). -/
def adminCode (data : Vector Byte 32) : Byte := recByte data 2

/-- The bytes of an admin record from offset 3 on. -/
def adminBody (data : Vector Byte 32) : AdminBody := Vector.ofFn fun (k : Fin 29) => data[k.val + 3]

/-- The byte of an admin record at offset k of the record, 3..31; 0 outside. -/
def argByte (body : AdminBody) (k : Nat) : Byte := body.toList.getD (k - 3) 0#8

/-- The byte of an admin record at an offset, as a number. -/
def argNat (body : AdminBody) (k : Nat) : Nat := (argByte body k).toNat

/-- A 16-bit argument, little-endian. -/
def argHalf (body : AdminBody) (k : Nat) : Half := ofLe16 (argByte body k) (argByte body (k + 1))

/-- A 32-bit argument, little-endian. -/
def argWord (body : AdminBody) (k : Nat) : Word :=
  ofLe32 (argByte body k) (argByte body (k + 1)) (argByte body (k + 2)) (argByte body (k + 3))

/-- The offsets of an admin record from a to 31. -/
def offsetsFrom (a : Nat) : List Nat := (List.range (32 - a)).map (a + ·)

/-- A reserved byte, at one of the given offsets, is nonzero (R156 step 2, R193). -/
def reservedNonzero (body : AdminBody) (offsets : List Nat) : Bool := offsets.any fun k => argByte body k != 0#8

/-- A value lies outside lo..hi. -/
def outside (lo hi n : Nat) : Bool := n < lo || hi < n

/-- A line argument, read as one of the four lines. -/
def lineOf (n : Nat) : LineId := Fin.ofNat 4 n

/-- A slot argument, read as one of the 128 slots. -/
def slotOf (n : Nat) : SlotId := Fin.ofNat 128 n

/-- A poll id argument, read as one of the 96 ids. -/
def pollOf (n : Nat) : PollId := Fin.ofNat 96 n

/-- The value FFh of a slot, an id or a placement argument (R163, R169). -/
def anyFF : Nat := 0xFF

/-- CONFIGURE LINE: the failing tests of arguments 1 to 13, in order (R160, R193). -/
def configureLineChecks (b : AdminBody) : List Bool :=
  [ outside 0 3 (argNat b 3), outside 8 65535 (argHalf b 4).toNat, outside 0 2 (argNat b 8), outside 1 2 (argNat b 9),
    outside 0 15 (argNat b 10), outside 0 15 (argNat b 11), outside 2 63 (argNat b 12), outside 2 63 (argNat b 13),
    outside 0 1 (argNat b 14), outside 0 15 (argNat b 15), outside 1 255 (argNat b 16), outside 10 60000 (argHalf b 6).toNat,
    outside 0 15 (argNat b 17) ]

/-- CONFIGURE LINE: the twelve settings its arguments give (R160, R193). -/
def configureLineSettings (b : AdminBody) : LineConfig where
  divisor := (argHalf b 4).toNat
  parity := if argNat b 8 = 0 then .none else if argNat b 8 = 1 then .even else .odd
  stopBits := argNat b 9
  leadDelay := argNat b 10
  trailDelay := argNat b 11
  quietGap := argNat b 12
  interCharacterLimit := argNat b 13
  echoCheck := argNat b 14 != 0
  busyLimit := argNat b 15
  busyBackoff := argNat b 16
  cyclePeriod := (argHalf b 6).toNat
  oneShotShare := argNat b 17

/-- The failing tests of the five station settings: response timeout, retry limit, threshold, reprobe interval, capture enable, at
consecutive offsets from k (R163, R164). -/
def stationSettingChecks (b : AdminBody) (k : Nat) : List Bool :=
  [ outside 1 255 (argNat b k), outside 0 7 (argNat b (k + 1)), outside 1 15 (argNat b (k + 2)),
    outside 1 255 (argNat b (k + 3)), outside 0 1 (argNat b (k + 4)) ]

/-- DEFINE STATION: the failing tests of arguments 1 to 8 (R163). -/
def defineStationChecks (b : AdminBody) : List Bool :=
  [ outside 0 127 (argNat b 3) && argNat b 3 != anyFF, outside 0 3 (argNat b 4), outside 1 126 (argNat b 5) ] ++
    stationSettingChecks b 6

/-- MODIFY STATION: the failing tests of arguments 1 to 6 (R164). -/
def modifyStationChecks (b : AdminBody) : List Bool := outside 0 127 (argNat b 3) :: stationSettingChecks b 4

/-- DEFINE POLL: the failing tests of arguments 1 to 11 (R169, R193). -/
def definePollChecks (b : AdminBody) : List Bool :=
  [ outside 0 95 (argNat b 3) && argNat b 3 != anyFF, false, outside 0 127 (argNat b 9), !hostFunction (argByte b 10),
    outside 0 16 (argNat b 11), (argWord b 4).toNat % 16 != 0, outside 0 64 (argNat b 12), outside 1 255 (argNat b 13),
    decide (argNat b 13 ≤ argNat b 14), false, outside 0 95 (argNat b 15) && argNat b 15 != anyFF ]

/-- DEFINE POLL: the line of its argument 2, bits 1..0 of offset 8. -/
def definePollLine (b : AdminBody) : LineId := lineOf (argNat b 8 % 4)

/-- DEFINE POLL: the report mode of its argument 10, bits 3..2 of offset 8. -/
def definePollMode (b : AdminBody) : ReportMode :=
  match argNat b 8 / 4 % 4 with
  | 0 => .never
  | 1 => .always
  | 2 => .onChange
  | _ => .onError

/-- DEFINE POLL: its arguments, with the id to fill. Template bytes beyond the length are ignored (R169). -/
def definePollArguments (b : AdminBody) (id : PollId) : PollArguments where
  id := id
  line := definePollLine b
  station := slotOf (argNat b 9)
  function := argByte b 10
  template := (List.range (argNat b 11)).map fun k => argByte b (16 + k)
  slotAddress := argWord b 4
  capacity := argNat b 12
  divisor := argNat b 13
  phase := argNat b 14
  mode := definePollMode b
  before := if argNat b 15 = anyFF then none else some (pollOf (argNat b 15))

/-- SET CAPTURE: the failing tests of arguments 1 to 6; with enable 0 arguments 2 to 6 are not checked (R172, R190). -/
def setCaptureChecks (b : AdminBody) : List Bool :=
  let size := 2 ^ argNat b 5
  if argNat b 3 = 0 then [] else
  [ outside 0 1 (argNat b 3), (argWord b 8).toNat % 64 != 0, outside 10 20 (argNat b 5), outside 0 1 (argNat b 4),
    outside 144 (size / 2) (argWord b 12).toNat,
    outside ((argWord b 12).toNat + 72) size (argWord b 16).toNat ]

/-- SET CAPTURE: the configuration its arguments give, none to disable (R172). -/
def setCaptureConfig (b : AdminBody) : Option CaptureConfig :=
  if argNat b 3 = 0 then none else
    some { base := argWord b 8, size := 2 ^ argNat b 5, mode := if argNat b 4 = 0 then .hold else .loop,
           stopMark := (argWord b 12).toNat, resumeMark := (argWord b 16).toNat }

/-! ## The context block -/

/-- The base address of ring n in the context block (R198). -/
def contextBase (data : Vector Byte 64) (n : Nat) : Word :=
  let at' := fun k => data.toList.getD (4 * n + k) 0#8
  ofLe32 (at' 0) (at' 1) (at' 2) (at' 3)

/-- The log2 size of ring n in the context block (R198). -/
def contextLog2Size (data : Vector Byte 64) (n : Nat) : Nat := (data.toList.getD (24 + n) 0#8).toNat

/-- The shadow area address of the context block (R198). -/
def contextShadow (data : Vector Byte 64) : Word :=
  ofLe32 (data[32]) (data[33]) (data[34]) (data[35])

/-- The block is valid (R137): ring bases multiples of 64, log2 sizes 4..12, shadow address a multiple of 16, reserved bytes zero, and
the CONTEXT ADDRESS it was read from a multiple of 64. -/
def contextValid (address : Word) (data : Vector Byte 64) : Bool :=
  address.toNat % 64 == 0 &&
  (List.range 6).all (fun n => (contextBase data n).toNat % 64 == 0) &&
  (List.range 6).all (fun n => !outside 4 12 (contextLog2Size data n)) &&
  (contextShadow data).toNat % 16 == 0 &&
  ((data.toList.drop 30).take 2).all (· == 0#8) && (data.toList.drop 36).all (· == 0#8)

end Sys2Proof.Machine
end

