-- ==== Sys2Proof/Machine/Access.lean ====
section
/-! DEFINITION. Reading and updating one block, one line, one station entry, one poll entry or one ring of the state. Every other
definition goes through these. -/

namespace Sys2Proof.Machine

/-- Line n. -/
def State.line (s : State) (n : LineId) : Line := s.lines[n]

/-- The station entry of a slot. -/
def State.station (s : State) (k : SlotId) : Station := s.stations[k]

/-- The poll entry of an id. -/
def State.poll (s : State) (k : PollId) : Poll := s.polls[k]

/-- Ring r, 0..4. -/
def State.ring (s : State) (r : RingId) : Ring := s.ringUnit.rings[r]

/-- The request ring of line n: ring n + 1 (R137). -/
def ringOfLine (n : LineId) : RingId := n.succ

/-- Change the Host Bus Interface. -/
def State.modHbi (s : State) (f : Hbi → Hbi) : State := { s with hbi := f s.hbi }

/-- Change the Ring Unit. -/
def State.modRingUnit (s : State) (f : RingUnit → RingUnit) : State := { s with ringUnit := f s.ringUnit }

/-- Change the Completion Writer. -/
def State.modWriter (s : State) (f : CompletionWriter → CompletionWriter) : State := { s with writer := f s.writer }

/-- Change the Capture Unit. -/
def State.modCapture (s : State) (f : Capture → Capture) : State := { s with capture := f s.capture }

/-- Give the Admin Processor a new progress. -/
def State.setAdmin (s : State) (a : Admin) : State := { s with admin := a }

/-- Change line n. -/
def State.modLine (s : State) (n : LineId) (f : Line → Line) : State := { s with lines := s.lines.set n (f s.lines[n]) }

/-- Change the station entry of a slot. -/
def State.modStation (s : State) (k : SlotId) (f : Station → Station) : State :=
  { s with stations := s.stations.set k (f s.stations[k]) }

/-- Change the poll entry of an id. -/
def State.modPoll (s : State) (k : PollId) (f : Poll → Poll) : State := { s with polls := s.polls.set k (f s.polls[k]) }

/-- Change ring r. -/
def State.modRing (s : State) (r : RingId) (f : Ring → Ring) : State :=
  s.modRingUnit fun u => { u with rings := u.rings.set r (f u.rings[r]) }

/-- Change the staging of line n. -/
def State.setStaging (s : State) (n : LineId) (x : Option Staged) : State :=
  s.modCapture fun c => { c with staging := c.staging.set n x }

/-- The lines in ascending order. -/
def allLines : List LineId := [0, 1, 2, 3]

/-- The station slots in ascending order. -/
def allSlots : List SlotId := List.finRange 128

/-- The poll entry ids in ascending order. -/
def allPolls : List PollId := List.finRange 96

/-- Do f for every line, in ascending order. -/
def State.forLines (s : State) (f : LineId → State → State) : State := allLines.foldl (fun t n => f n t) s

/-- A line is running: its engine is not OFF and it is not STOPPING (R95, R180). -/
def Line.running (l : Line) : Bool := l.engine != .off && l.stopping.isNone

/-- DEn: asserted in LEAD, SEND and TRAIL, released in every other state (R19). -/
def Line.driverEnable (l : Line) : Bool := l.engine == .lead || l.engine == .send || l.engine == .trail

/-- The levels TXn takes during the character in transmission; the empty list is TXn high (R1, R19). -/
def Line.txBits (l : Line) : List Bool :=
  match l.txCharacter with
  | some b => l.config.characterLevels b
  | none => []

/-- The level of TXn in a bit time, counted from the start bit of the character in transmission: high after its last stop bit, and whenever
no character is being transmitted (R1, R19). -/
def Line.txLevel (l : Line) (bit : Nat) : Bool := l.txBits.getD bit true

/-- The device's states in which the blocks that finish work go on: RUNNING, HALTING, HALTED (R154, R179). -/
def DeviceState.working : DeviceState → Bool
  | .running | .halting | .halted => true
  | .unconfigured | .loading | .faulted => false

end Sys2Proof.Machine
end

