-- ==== Sys2Proof/Machine/Flags.lean ====
section
/-! DEFINITION. Attention causes, the interrupt output, line events, ring faults, and what the registers read (chapter 10, R37, R141). -/

namespace Sys2Proof.Machine

/-- The seven attention causes (R182). -/
inductive Cause where
  | completion | captureData | captureEvent | lineEvent | ringFault | halted | deviceFault
  deriving DecidableEq, Repr

/-- The bit of a cause in ATTENTION and ATTENTION MASK (R200). -/
def causeBit : Cause → BitVec 7
  | .completion => 0x01#7
  | .captureData => 0x02#7
  | .captureEvent => 0x04#7
  | .lineEvent => 0x08#7
  | .ringFault => 0x10#7
  | .halted => 0x20#7
  | .deviceFault => 0x40#7

/-- Latch an attention cause; a cause latched while set stays set (R182). -/
def State.latch (s : State) (c : Cause) : State := s.modHbi fun h => { h with attention := h.attention ||| causeBit c }

/-- The interrupt output: IRQ_ENABLE set and a cause both latched and set in the mask (R183). -/
def State.interrupt (s : State) : Bool := s.hbi.irqEnable && (s.hbi.attention &&& s.hbi.mask) != 0#7

/-- The causes of a line's event latch (R37). -/
inductive LineCause where
  | jam | break | overrun
  deriving DecidableEq, Repr

/-- Record a cause in a line's event latch (R37). -/
def Line.recordEvent (l : Line) : LineCause → Line
  | .jam => { l with eventJam := true }
  | .break => { l with eventBreak := true }
  | .overrun => { l with eventOverrun := true }

/-- A LINE_EVENT of line n: its cause is recorded and the attention cause latched (R37). -/
def State.lineEvent (s : State) (n : LineId) (c : LineCause) : State :=
  (s.modLine n fun l => l.recordEvent c).latch .lineEvent

/-- A line's event latch is set while any cause is recorded (R37). -/
def Line.eventLatch (l : Line) : Bool := l.eventJam || l.eventBreak || l.eventOverrun

/-- Mark the shadow area for writing (R142). -/
def State.markShadow (s : State) : State := s.modRingUnit fun u => { u with shadowMarked := true }

/-- A ring fault: it is recorded in the ring fault word, counted, marks the shadow area and latches RING_FAULT (R141). -/
def State.ringFault (s : State) (cause : RingFaultCause) (id : BitVec 4) : State :=
  (s.modRingUnit fun u =>
    { u with faultCause := cause, faultRing := id, faultCount := u.faultCount + 1, shadowMarked := true }).latch .ringFault

/-- A ring becomes FAULTED by a ring fault of the given cause (R141). -/
def State.faultRing (s : State) (r : RingId) (cause : RingFaultCause) : State :=
  (s.modRing r fun g => { g with state := .faulted }).ringFault cause (BitVec.ofNat 4 r.val)

/-! ## What the registers read -/

/-- The capture status bits of STATUS, bits 21..16 (R136, R200). While the unit is disabled the mode bit reads 0 (DESIGN CHOICE, log
entry 34). -/
def Capture.statusBits (c : Capture) : Nat :=
  bitOf c.config.isSome + 2 * bitOf (c.config.any fun g => g.mode = .loop) + 4 * bitOf c.paused + 8 * bitOf c.fault +
    16 * bitOf c.badRelease + 32 * bitOf c.reconfig

/-- STATUS (R176, R200). -/
def State.statusWord (s : State) : Word :=
  BitVec.ofNat 32
    (s.hbi.device.code.toNat + 16 * s.hbi.faultCause.code.toNat + 128 * bitOf (s.hbi.lastReset = .function) +
      256 * (bitOf (s.line 0).eventLatch + 2 * bitOf (s.line 1).eventLatch + 4 * bitOf (s.line 2).eventLatch +
        8 * bitOf (s.line 3).eventLatch) +
      65536 * s.capture.statusBits)

/-- CONTROL as read: ENABLE and IRQ_ENABLE as last written, RESET 0 (R174, R200). -/
def State.controlWord (s : State) : Word := BitVec.ofNat 32 (bitOf s.hbi.enable + 4 * bitOf s.hbi.irqEnable)

/-- CAPTURE POSITION: write offset and the low 12 bits of the lap count (R136, R200). -/
def State.positionWord (s : State) : Word :=
  s.capture.lapCount.extractLsb' 0 12 ++ BitVec.ofNat 20 s.capture.writeOffset

/-- The byte offset of the 32-bit word that holds a byte offset of the window (R200). -/
def wordOffset (offset : BitVec 6) : BitVec 6 := offset &&& 0x3C#6

/-- What the register window holds at an offset (R174, R176, R200). -/
def State.registerWord (s : State) (offset : BitVec 6) : Word :=
  match (wordOffset offset).toNat with
  | 0x00 => BitVec.setWidth 32 (Config.revision ++ Config.partCode)
  | 0x04 => s.controlWord
  | 0x08 => s.statusWord
  | 0x0C => s.hbi.attention.setWidth 32
  | 0x10 => s.hbi.mask.setWidth 32
  | 0x14 => s.hbi.contextAddress
  | 0x1C => s.writer.released.setWidth 32
  | 0x20 => BitVec.ofNat 32 s.capture.releaseOffset
  | 0x24 => s.positionWord
  | 0x28 => s.writer.holdoff ++ (0#8 ++ s.writer.threshold)
  | _ => 0#32

end Sys2Proof.Machine
end

