-- ==== Sys2Proof/Machine/Capture.lean ====
section
/-! DEFINITION. The Capture Unit's own operations (chapter 7): free space, pause, admission, reservations, placement, release, faults. -/

namespace Sys2Proof.Machine

/-- Free space in HOLD mode: size minus unreleased bytes minus reserved bytes (R125). -/
def Capture.freeSpace (c : Capture) (g : CaptureConfig) : Nat := g.size - c.unreleased - c.reserved

/-- The configuration while the unit is enabled in HOLD mode. -/
def Capture.holdConfig (c : Capture) : Option CaptureConfig := c.config.filter fun g => g.mode = .hold

/-- Pause evaluation (R126): below the stop mark the paused flag is set, at the resume mark it is cleared; each change latches
CAPTURE_EVENT. -/
def State.evaluatePause (s : State) : State :=
  match s.capture.holdConfig with
  | none => s
  | some g =>
    let free := s.capture.freeSpace g
    if !s.capture.paused && decide (free < g.stopMark) then
      (s.modCapture fun c => { c with paused := true }).latch .captureEvent
    else if s.capture.paused && decide (g.resumeMark ≤ free) then
      (s.modCapture fun c => { c with paused := false }).latch .captureEvent
    else s

/-- A reservation is returned: reserved bytes fall by 144 and pause is evaluated (R124). -/
def State.returnReservation (s : State) : State :=
  (s.modCapture fun c => { c with reserved := c.reserved - Config.reservationBytes }).evaluatePause

/-- The unit admits a fetch now (R122). -/
def Capture.admits (c : Capture) : Bool :=
  match c.config with
  | none => false
  | some g =>
    !c.fault && !c.reconfig &&
      (match g.mode with
       | .hold => !c.paused && decide (Config.reservationBytes ≤ c.freeSpace g)
       | .loop => true)

/-- Admission makes a reservation: reserved bytes rise by 144, and pause is evaluated (R122; in LOOP mode it changes nothing). -/
def State.reserve (s : State) : State :=
  (s.modCapture fun c => { c with reserved := c.reserved + Config.reservationBytes }).evaluatePause

/-- The test of an EVENT_FETCH before dispatch (R123). -/
def Capture.passesDispatch (c : Capture) (n : LineId) : Bool :=
  c.config.isSome && !c.fault && !c.reconfig && c.staging[n].isNone

/-- The bytes a record of payload length L occupies: 8 + L rounded up to a multiple of 4 (R128). -/
def recordBytes (payloadLength : Nat) : Nat := (8 + payloadLength + 3) / 4 * 4

/-- Bytes a placed record consumed, its PAD included (R125). -/
def Placed.consumed (p : Placed) : Nat := p.bytes.length + (p.pad.elim 0 fun q => q.2)

/-- Placement of a staged frame while the unit is not faulted (R128, R129): position, PAD, contents and consumption; the fetch's
reservation is returned and pause evaluated. -/
def State.place (s : State) (n : LineId) (staged : Staged) (g : CaptureConfig) : State :=
  let len := recordBytes staged.payload.length
  let tail := g.size - s.capture.placeOffset
  let fits := decide (len ≤ tail)
  let offset := if fits then s.capture.placeOffset else 0
  let pad := if fits then none else some (s.capture.placeOffset, tail)
  let wrapped := decide (g.mode = .loop) && (!fits || (s.capture.placeWrapped && offset == 0))
  let lost := s.capture.lost || wrapped
  let record : Placed :=
    { line := n, pad := pad, padWritten := false, offset := offset,
      bytes := captureRecord n staged lost (stampOf (s.line n).counters.cycle), written := 0 }
  let used := len + (if fits then 0 else tail)
  (s.modCapture fun c =>
    { c with
      placeOffset := if offset + len = g.size then 0 else offset + len
      placeWrapped := decide (offset + len = g.size)
      unreleased := if g.mode = .hold then c.unreleased + used else c.unreleased
      lost := false
      writeQueue := c.writeQueue ++ [record] }).returnReservation

/-- A frame handed over while the unit is faulted is discarded: the staging empties, the lost flag is set and the reservation is
returned (R128, R133). -/
def State.discardStaged (s : State) (n : LineId) : State :=
  ((s.setStaging n none).modCapture fun c => { c with lost := true }).returnReservation

/-- The end of an EVENT_FETCH exchange at the Capture Unit (R65 step 2, R124, R127, R128): `staged` says whether the exchange staged a
frame. -/
def State.handOver (s : State) (n : LineId) (staged : Bool) : State :=
  match staged, s.capture.staging[n], s.capture.config with
  | true, some f, some g => if s.capture.fault then s.discardStaged n else s.place n f g
  | true, some _, none => s.discardStaged n
  | _, _, _ => s.returnReservation

/-- The records of the write queue are discarded with their stagings, the place offset returns to the write offset, and in HOLD mode
the unreleased bytes fall by what the records consumed (R133, R134). -/
def Capture.discardQueue (c : Capture) : Capture :=
  { c with
    staging := c.writeQueue.foldl (fun st p => st.set p.line none) c.staging
    unreleased := if c.holdConfig.isSome then c.unreleased - (c.writeQueue.map Placed.consumed).sum else c.unreleased
    writeQueue := []
    placeOffset := c.writeOffset
    placeWrapped := false
    lost := true }

/-- A capture write ends with a bus error: the unit is faulted and CAPTURE_EVENT latched (R133). -/
def State.captureFault (s : State) : State :=
  (s.modCapture fun c => { c.discardQueue with fault := true }).latch .captureEvent

/-- The Capture Unit at the device's entry to FAULTED (R134): staged frames and queued records are discarded, every reservation is
returned, the lost flag is set (log entry 18). -/
def Capture.deviceFault (c : Capture) : Capture :=
  { c.discardQueue with staging := Vector.replicate 4 none, reserved := 0 }

/-- The written and unreleased bytes: (write offset - release offset) mod size (R125, R132). -/
def Capture.span (c : Capture) (size : Nat) : Nat := (c.writeOffset + size - c.releaseOffset) % size

/-- The bytes a release to V would release: (V - release offset) mod size (R132). -/
def Capture.releaseDistance (c : Capture) (size v : Nat) : Nat := (v + size - c.releaseOffset) % size

/-- A CAPTURE RELEASE value is valid (R132): a multiple of 4, below the size, and within the span. -/
def Capture.releaseValid (c : Capture) (size v : Nat) : Bool :=
  v % 4 == 0 && decide (v < size) && decide (c.releaseDistance size v ≤ c.span size)

/-- A CAPTURE RELEASE of offset V (R132): in HOLD mode a valid V releases bytes and pause is evaluated, an invalid one sets the
bad-release flag and latches CAPTURE_EVENT; in LOOP mode and while disabled it is ignored. -/
def State.captureReleaseTo (s : State) (v : Nat) : State :=
  match s.capture.holdConfig with
  | none => s
  | some g =>
    if s.capture.releaseValid g.size v then
      (s.modCapture fun c =>
        { c with releaseOffset := v, unreleased := c.unreleased - c.releaseDistance g.size v }).evaluatePause
    else (s.modCapture fun c => { c with badRelease := true }).latch .captureEvent

/-- A SET CAPTURE applies (R135): the new configuration, offsets, unreleased bytes and lap count 0, paused, fault and bad-release clear,
reconfiguration pending clear, the lost flag kept. -/
def Capture.reconfigure (c : Capture) (config : Option CaptureConfig) : Capture :=
  { c with
    config := config, writeOffset := 0, placeOffset := 0, releaseOffset := 0, unreleased := 0, lapCount := 0,
    paused := false, fault := false, badRelease := false, reconfig := false, placeWrapped := false }

/-- The bytes of the burst that writes the next part of the record at the head of the write queue: offset in the region and bytes
(R130). -/
def Placed.nextBurst (p : Placed) (base : Word) : Nat × List Byte :=
  match p.pad, p.padWritten with
  | some q, false => (q.1, padHeader q.2)
  | _, _ =>
    let at' := p.offset + p.written
    let room := Config.burstBytes - (base.toNat + at') % Config.burstBytes
    (at', (p.bytes.drop p.written).take room)

/-- The record after a burst of the given length ended without error. -/
def Placed.advance (p : Placed) (length : Nat) : Placed :=
  match p.pad, p.padWritten with
  | some _, false => { p with padWritten := true }
  | _, _ => { p with written := p.written + length }

/-- All bytes of the record, its PAD's header included, are written. -/
def Placed.finished (p : Placed) : Bool := (p.pad.isNone || p.padWritten) && decide (p.bytes.length ≤ p.written)

/-- The last burst of the record at the head of the queue has ended (R130): it leaves the queue, the write offset moves to its end, the
line's staging empties, CAPTURE_DATA is latched; a wrap raises the lap count, and in LOOP mode latches CAPTURE_EVENT. -/
def State.recordWritten (s : State) (p : Placed) (g : CaptureConfig) : State :=
  let last := p.offset + p.bytes.length
  let wrap := p.pad.isSome || last == g.size
  let t := (s.modCapture fun c =>
    { c with
      writeQueue := c.writeQueue.drop 1
      writeOffset := if last = g.size then 0 else last
      staging := c.staging.set p.line none
      lapCount := if wrap then c.lapCount + 1 else c.lapCount }).latch .captureData
  if wrap && decide (g.mode = .loop) then t.latch .captureEvent else t

end Sys2Proof.Machine
end

