-- ==== Sys2Proof/Machine/Station.lean ====
section
/-! DEFINITION. What the Station Table does to one entry (chapter 4): health accounting, toggles, event-pending, settings, lookup. -/

namespace Sys2Proof.Machine

/-- The three classes for station health (R48). -/
inductive HealthClass where
  | success | failure | neutral
  deriving DecidableEq, Repr

/-- The health class of an ending status (R48); statuses that end no exchange with a station are neutral. -/
def healthClass : Status → HealthClass
  | .ok | .refused | .truncated | .segmentLimit => .success
  | .timeout | .checkError | .frameError => .failure
  | _ => .neutral

/-- The ending statuses after which, a frame having been sent, the resync flag is set (R55). -/
def setsResync : Status → Bool
  | .timeout | .checkError | .frameError | .contention | .busyLimit | .aborted => true
  | _ => false

/-- Entry to OFFLINE: failures equal to the threshold, reprobe counter 0, notice flag set (R73). -/
def Station.enterOffline (st : Station) : Station :=
  { st with state := .offline, failures := st.threshold, reprobe := 0, notice := true }

/-- A success class at the exchange end (R70). -/
def Station.success (st : Station) : Station :=
  match st.state with
  | .probing => { st with state := .online, failures := 0, notice := true }
  | .online => { st with failures := 0 }
  | .suspect => { st with state := .online, failures := 0 }
  | .offline => { st with state := .online, failures := 0, reprobe := 0, notice := true }
  | .absent | .held => st

/-- A failure class at the exchange end (R71). -/
def Station.failure (st : Station) : Station :=
  match st.state with
  | .probing =>
    if st.failures + 1 = st.threshold then st.enterOffline else { st with failures := st.failures + 1 }
  | .online => if st.threshold = 1 then st.enterOffline else { st with state := .suspect, failures := 1 }
  | .suspect =>
    if st.failures + 1 = st.threshold then st.enterOffline else { st with failures := st.failures + 1 }
  | .offline => { st with failures := st.threshold }
  | .absent | .held => st

/-- Health accounting with the exchange counters (R70 to R72, R74). -/
def Station.account (st : Station) : HealthClass → Station
  | .success => { st.success with good := satSucc Config.counterMax st.good }
  | .failure => { st.failure with failed := satSucc Config.counterMax st.failed }
  | .neutral => st

/-- The resync decision of R55 (and of R42 for a cut exchange). -/
def Station.resyncDecision (st : Station) (status : Status) (frameSent : Bool) : Station :=
  if frameSent && setsResync status then { st with resync := true } else st

/-- Step 1 of the exchange end at the entry (R64): the resync decision, then health accounting. -/
def Station.exchangeEnd (st : Station) (status : Status) (frameSent : Bool) : Station :=
  (st.resyncDecision status frameSent).account (healthClass status)

/-- An accepted REPLY or REFUSE to a REQUEST at the entry: the toggle flips (R54), and the event-pending flag follows R77. -/
def Station.acceptResponse (st : Station) (refuse eventPending : Bool) : Station :=
  { st with
    toggle := !st.toggle
    eventPending := if eventPending then true else if refuse then st.eventPending else false }

/-- An accepted REPLY to a SYNC at the entry: the toggle becomes 0 and the resync flag clears (R52). -/
def Station.acceptSync (st : Station) : Station := { st with toggle := false, resync := false }

/-- DEFINE STATION fills an entry (R69). -/
def Station.define (line : LineId) (address : BitVec 7) (responseTimeout retryLimit threshold reprobeInterval : Nat)
    (captureEnable : Bool) : Station :=
  { Station.absent with
    state := .probing, line := line, address := address, responseTimeout := responseTimeout, retryLimit := retryLimit,
    threshold := threshold, reprobeInterval := reprobeInterval, captureEnable := captureEnable, resync := true }

/-- A new threshold brings state and failures into the ranges of R68 at once (R83). -/
def Station.adjustThreshold (st : Station) : Station :=
  match st.state with
  | .probing | .suspect => if st.threshold ≤ st.failures then st.enterOffline else st
  | .offline => { st with failures := st.threshold }
  | .absent | .online | .held => st

/-- MODIFY STATION replaces the five settings (R82, R83). -/
def Station.modify (st : Station) (responseTimeout retryLimit threshold reprobeInterval : Nat) (captureEnable : Bool) : Station :=
  Station.adjustThreshold
    { st with
      responseTimeout := responseTimeout, retryLimit := retryLimit, threshold := threshold,
      reprobeInterval := reprobeInterval, captureEnable := captureEnable }

/-- HOLD STATION applies to an entry that is not ABSENT (R84): HELD, failures 0, reprobe counter 0; a pending HOLD is cleared (R87). -/
def Station.hold (st : Station) : Station :=
  if st.state = .absent then st else { st with state := .held, failures := 0, reprobe := 0, pending := .clear }

/-- RELEASE STATION (R85): PROBING, failures 0, resync set. -/
def Station.release (st : Station) : Station := { st with state := .probing, failures := 0, resync := true }

/-- The entry that is not ABSENT and has this line and address (R69, R78): at most one; the lowest slot is looked at first. -/
def State.lookup (s : State) (n : LineId) (address : BitVec 7) : Option SlotId :=
  allSlots.find? fun k =>
    let st := s.station k
    st.state != .absent && st.line == n && st.address == address

/-- The state of a station passes polls and event fetches (R68, R79). -/
def StationState.pollable : StationState → Bool
  | .probing | .online | .suspect => true
  | .absent | .offline | .held => false

end Sys2Proof.Machine
end

