-- ==== Sys2Proof/Machine/Ops.lean ====
section
/-! DEFINITION. The operations several blocks share: the holding queue and its claims (R151), notices (R81), follow-up entries that
leave (R110), the Admin Processor's completions (R157) and the deferred commands (R158). -/

namespace Sys2Proof.Machine

/-! ## The holding queue -/

/-- A holding-queue entry is free (R151). -/
def State.hasRoom (s : State) : Bool := decide (s.writer.holding.length < Config.holdingDepth)

/-- A claim of claimant k is granted: its completion joins the tail, and the pointer moves to the claimant after k (R151). -/
def State.grantTo (s : State) (k : Fin 7) (c : Completion) : State :=
  s.modWriter fun w => { w with holding := w.holding ++ [c], pointer := k + 1 }

/-- A claim made now: granted in this event while an entry is free (R151), and never in FAULTED (R154). -/
def State.tryClaim (s : State) (k : Fin 7) (c : Completion) : Option State :=
  if s.hasRoom && s.hbi.device != .faulted then some (s.grantTo k c) else none

/-- The claimant number of a line (R151). -/
def lineClaimant (n : LineId) : Fin 7 := n.castLE (by decide)

/-- The claimant number of the Admin Processor. -/
def adminClaimant : Fin 7 := 4

/-- The claimant number of the Ring Unit. -/
def ringClaimant : Fin 7 := 5

/-- The claimant number of the notice scanner. -/
def noticeClaimant : Fin 7 := 6

/-- A completion joins the queue if an entry is free, without a grant (the OVERRUN reports of R98). -/
def State.placeReport (s : State) (c : Completion) : State :=
  if s.hasRoom && s.hbi.device != .faulted then s.modWriter fun w => { w with holding := w.holding ++ [c] } else s

/-! ## The ring-fetch requester (R143, R185) -/

/-- The records waiting in a ring: (accepted producer - consumer) mod 65536 (R139). -/
def Ring.waiting (g : Ring) : Nat := (g.accepted - g.consumer).toNat

/-- The further condition of R143 for a ring; of two fetches, one is under way at a time. -/
def State.ringReady (s : State) (r : RingId) : Bool :=
  if h : r = 0 then s.admin == .idle
  else
    let l := s.line (r.pred h)
    l.running && decide (l.prefetched.length < Config.prefetchDepth) && s.ringUnit.claim.isNone

/-- A ring is eligible for a fetch (R143). -/
def State.ringEligible (s : State) (r : RingId) : Bool :=
  s.hbi.device == .running && (s.ring r).state == .active && decide (0 < (s.ring r).waiting) && s.ringReady r

/-- The rings in round-robin order, from the ring after the one fetched last (R143). -/
def ringOrder (next : RingId) : List RingId := [0, 1, 2, 3, 4].map (next + ·)

/-- The ring whose turn it is: the first eligible one (R143). -/
def State.nextRing (s : State) : Option RingId := (ringOrder s.ringUnit.fetchNext).find? s.ringEligible

/-- The ring the requester asks for: the one it asked for when it became free, and with none asked for, or one no longer eligible (log
entry 37), the ring whose turn it is (R143). -/
def State.ringToFetch (s : State) : Option RingId :=
  match s.ringUnit.requested with
  | some r => if s.ringEligible r then some r else s.nextRing
  | none => s.nextRing

/-- A record fetch has the burst in progress (R143). -/
def State.fetchUnderWay (s : State) : Bool :=
  match s.hbi.burst with
  | some b =>
    match b.owner with
    | .ringFetch _ => true
    | _ => false
  | none => false

/-- The requester makes its request when it is free and a ring is eligible, and keeps it until its grant (R143, R185). The model lets it
ask at the end of the event, after its other effects (DESIGN CHOICE, log entry 37). -/
def State.askFetch (s : State) : State :=
  s.modRingUnit fun u => { u with requested := if s.fetchUnderWay then none else s.ringToFetch }

/-! ## Notices -/

/-- The next slot whose notice flag is set, from the scanner's next slot on, wrapping (R81). -/
def State.nextNotice (s : State) : Option SlotId :=
  (allSlots.map (s.writer.noticeNext + ·)).find? fun k => (s.station k).notice

/-- The notice of a slot (R81). -/
def State.noticeOf (s : State) (k : SlotId) : Completion :=
  let st := s.station k
  { tag := st.address.setWidth 32, status := .stationNotice, detail := byteOf st.failures, kind := .notice,
    stationState := st.state.code, origin := byteOf k.val, attempts := 0, segments := 0, delivered := 0, residue := 0,
    stamp := stampOf (s.line st.line).counters.cycle }

/-- The scanner, granted an entry, posts the notice of slot k and clears its flag (R81). -/
def State.postNotice (s : State) (k : SlotId) : State :=
  ((s.grantTo noticeClaimant (s.noticeOf k)).modStation k fun st => { st with notice := false }).modWriter
    fun w => { w with noticeNext := k + 1 }

/-- The scanner claims while any notice flag is set, and is granted while entries are free (R81, R151); at most 16 are. -/
def State.postNoticesFuel : Nat → State → State
  | 0, s => s
  | fuel + 1, s =>
    if s.hasRoom && s.hbi.device != .faulted then
      match s.nextNotice with
      | some k => postNoticesFuel fuel (s.postNotice k)
      | none => s
    else s

/-- The scanner's claims in the event that set a notice flag. -/
def State.postNotices (s : State) : State := s.postNoticesFuel Config.holdingDepth

/-! ## Follow-up entries that leave without dispatch -/

/-- A follow-up entry is dropped: an EVENT_FETCH returns its reservation (R110, R124). -/
def State.returnFor (s : State) (f : FollowUp) : State :=
  match f.kind with
  | .eventFetch => s.returnReservation
  | .probe => s

/-- The entries of line n's follow-up queue that satisfy `gone` leave it, each EVENT_FETCH returning its reservation (R110). -/
def State.dropFollowUps (s : State) (n : LineId) (gone : FollowUp → Bool) : State :=
  ((s.line n).followUp.filter gone).foldl State.returnFor
    (s.modLine n fun l => { l with followUp := l.followUp.filter fun f => !gone f })

/-- The follow-up entries of a station leave its line's queue (R84, R85). -/
def State.dropStation (s : State) (k : SlotId) : State :=
  s.dropFollowUps (s.station k).line fun f => f.slot == k

/-- HOLD STATION applies (R84). -/
def State.applyHold (s : State) (k : SlotId) : State := (s.dropStation k).modStation k Station.hold

/-- REMOVE STATION applies (R85). -/
def State.applyRemove (s : State) (k : SlotId) : State := (s.dropStation k).modStation k fun _ => .absent

/-! ## ADMIN completions -/

/-- An ADMIN completion (R157). -/
def adminCompletion (tag : Half) (code : Byte) (status : Status) (detail : Byte) (delivered residue : Nat)
    (stationState : BitVec 3) : Completion where
  tag := tag.setWidth 32
  status := status
  detail := detail
  kind := .admin
  stationState := stationState
  origin := code
  attempts := 0
  segments := 0
  delivered := delivered
  residue := residue
  stamp := 0

/-- The processor claims an entry for a fixed completion: IDLE when granted, CLAIMING while not (R155, R156 step 5); in FAULTED no
completion is written and the processor is IDLE (R159). -/
def State.adminClaim (s : State) (c : Completion) : State :=
  if s.hbi.device = .faulted then s.setAdmin .idle
  else
    match s.tryClaim adminClaimant c with
    | some t => t.setAdmin .idle
    | none => s.setAdmin (.claiming c)

/-! ## Deferred commands -/

/-- The condition that releases a deferred command (R158). -/
def AdminWait.ready (w : AdminWait) (s : State) : Bool :=
  match w with
  | .stopLine n => (s.line n).engine == .off
  | .holdStation k => !(s.station k).busy
  | .removeStation k => !(s.station k).busy
  | .deletePoll id => (s.poll id).state == .free
  | .setCapture _ => s.capture.reserved == 0 && s.capture.writeQueue.isEmpty

/-- What a deferred command does when it applies (R158). -/
def AdminWait.apply (w : AdminWait) (s : State) : State :=
  match w with
  | .stopLine _ => s
  | .holdStation k => s.applyHold k
  | .removeStation k => s.applyRemove k
  | .deletePoll _ => s
  | .setCapture g => s.modCapture fun c => c.reconfigure g

/-- The command code of a deferred command. -/
def AdminWait.code : AdminWait → Byte
  | .stopLine _ => 0x03#8
  | .holdStation _ => 0x07#8
  | .removeStation _ => 0x06#8
  | .deletePoll _ => 0x0B#8
  | .setCapture _ => 0x0D#8

/-- The station state a deferred command's completion carries (R157). -/
def AdminWait.stationState : AdminWait → BitVec 3
  | .holdStation _ => StationState.held.code
  | .removeStation _ => StationState.absent.code
  | .stopLine _ | .deletePoll _ | .setCapture _ => noStationCode

/-- A deferred command applies in the event its condition holds, and its DONE completion is claimed (R158). -/
def State.deferredApply (s : State) : State :=
  match s.admin with
  | .deferred tag w =>
    if w.ready s then (w.apply s).adminClaim (adminCompletion tag w.code .done 0 0 0 w.stationState) else s
  | _ => s

end Sys2Proof.Machine
end

