-- ==== Sys2Proof/Machine/Engine.lean ====
section
/-! DEFINITION. The states of a Line Engine and how it enters them (chapter 2), and the preparation of the frames of an exchange
(R21, R51, sections 3.7 to 3.9). -/

namespace Sys2Proof.Machine

/-- A length in character times, in bit times (R1). -/
def Line.characterTimes (l : Line) (k : Nat) : Nat := k * l.config.characterBits

/-- Leaving a state: its timers stop, and what it had collected or was transmitting is dropped (R22, R41). -/
def Line.leave (l : Line) : Line :=
  { l with timers := .stopped, received := [], candidate := [], txCharacter := none, echoPending := none }

/-- Entry to QUIET (R23, R24): the quiet timer starts if RXn is high, the jam limit in any case. -/
def Line.enterQuiet (l : Line) : Line :=
  { l.leave with
    engine := .quiet
    timers := { Timers.stopped with
      quiet := if l.rxHigh then some l.config.quietGap else none
      jam := some (l.characterTimes Config.jamCharacters) } }

/-- Entry to QUIET for a new attempt: a retry, or the first attempt of a frame (R46, R47). -/
def Line.newAttempt (l : Line) : Line :=
  { l.enterQuiet with resend := false, counted := false, sentCount := 0, mismatch := false }

/-- Entry to DELIVER with what the data mover is to carry (R34). -/
def Line.enterDeliver (l : Line) (job : MoverJob) : Line :=
  { l.leave with engine := .deliver, job := some job }

/-- Entry to AWAIT after TRAIL: the response timer starts (R29). -/
def Line.enterAwait (l : Line) : Line :=
  { l.leave with
    engine := .await
    timers := { Timers.stopped with
      response := .running (l.characterTimes (l.exchange.elim 0 fun x => x.responseTimeout)) } }

/-- Entry to BACKOFF (R33): the backoff timer starts; the frame is resent unchanged and not as a new attempt (R46, R49). -/
def Line.enterBackoff (l : Line) : Line :=
  { l.leave with
    engine := .backoff, resend := true, counted := false
    timers := { Timers.stopped with backoff := some (l.characterTimes l.config.busyBackoff) } }

/-- Entry to TRAIL: the trail timer starts (R28). -/
def Line.enterTrail (l : Line) : Line :=
  { l.leave with engine := .trail, timers := { Timers.stopped with trail := some l.config.trailDelay } }

/-- Entry to LEAD: DEn is asserted and the lead timer starts (R25). -/
def Line.enterLead (l : Line) : Line :=
  { l.leave with engine := .lead, timers := { Timers.stopped with lead := some l.config.leadDelay } }

/-- An attempt raises attempts used and attempts total, which saturates at 15 (R44, R46). -/
def Exchange.countAttempt (x : Exchange) : Exchange :=
  { x with attemptsUsed := x.attemptsUsed + 1, attemptsTotal := satSucc 15 x.attemptsTotal }

/-- The characters of the prepared frame (R26). -/
def Line.frameCharacters (l : Line) : List Byte :=
  match l.frame, l.exchange with
  | some f, some x => f.characters x.address
  | _, _ => []

/-- The transmission of the character at an index begins: it awaits its echo with echo check on (R26, R27). -/
def Line.transmit (l : Line) (index : Nat) : Line :=
  let c := l.frameCharacters[index]?
  { l with sentCount := index, txCharacter := c, echoPending := if l.config.echoCheck then c else none }

/-- Entry to SEND (R26): the first start bit begins, so a frame of the exchange is sent (R44), and the attempt is counted unless the
frame is a resend after BUSY (R46). -/
def Line.enterSend (l : Line) : Line :=
  let sent : Line := { l.leave with
    engine := .send, mismatch := false, counted := l.counted || !l.resend
    exchange := l.exchange.map fun x =>
      let y := { x with frameSent := true }
      if l.resend then y else y.countAttempt }
  sent.transmit 0

/-- The engine in IDLE holds no exchange, no claim and nothing in progress (R19, R35). -/
def Line.idle (l : Line) : Line :=
  { l.leave with
    engine := .idle, exchange := none, frame := none, resend := false, counted := false, sentCount := 0, mismatch := false
    cutting := false, job := none, claim := none }

/-- The engine in OFF: as in IDLE, and the receiver forms no characters and STOPPING is clear (R39). -/
def Line.off (l : Line) : Line := { l.idle with engine := .off, stopping := none, rxPhase := .notForming }

/-- START LINE at the engine (R20, R94, R108): IDLE, counters, break flag, event latch and share counter cleared, the receiver started,
the cycle timer running from the period held. -/
def Line.start (l : Line) : Line :=
  { l.idle with
    counters := .zero, breakFlag := false, eventJam := false, eventBreak := false, eventOverrun := false, share := 0
    rxPhase := if l.rxHigh then .waitEdge else .waitHigh
    cycleTimer := .running l.config.cyclePeriod }

/-! ## The exchange an engine holds -/

/-- Change the exchange record of line n. -/
def State.modExchange (s : State) (n : LineId) (f : Exchange → Exchange) : State :=
  s.modLine n fun l => { l with exchange := l.exchange.map f }

/-- The exchange is a bulk read (R58). -/
def Exchange.bulkRead (x : Exchange) : Bool :=
  match x.origin with
  | .request r => r.bulkRead
  | .poll _ | .followUp _ => false

/-- The exchange is a bulk write (R60). -/
def Exchange.bulkWrite (x : Exchange) : Bool :=
  match x.origin with
  | .request r => r.bulkWrite
  | .poll _ | .followUp _ => false

/-- The payload length of the exchange's request record. -/
def Exchange.payloadLength (x : Exchange) : Nat :=
  match x.origin with
  | .request r => r.payloadLength
  | .poll _ | .followUp _ => 0

/-- The attempts each segment is given (R46): the retry limit plus 1. -/
def Exchange.budget (x : Exchange) : Nat := x.retryLimit + 1

/-- The read from host memory that the next REQUEST needs: where and how many bytes (R21, R60, R61). -/
def Exchange.readNeeded (x : Exchange) : Option (Word × Nat) :=
  match x.payload with
  | .host address length =>
    let done := if x.bulkWrite then Config.segmentBytes * x.segmentsDone else if x.segmentsDone = 0 then 0 else length
    let part := if x.bulkWrite then min Config.segmentBytes (length - done) else length - done
    if part = 0 then none else some (address + BitVec.ofNat 32 done, part)
  | .none | .inlineBytes _ | .template _ => none

/-- The payload of the next REQUEST when nothing is read for it (R9): inline bytes, a template, or none. -/
def Exchange.heldPayload (x : Exchange) : List Byte :=
  match x.payload with
  | .inlineBytes bytes | .template bytes => if x.segmentsDone = 0 then bytes else []
  | .none | .host _ _ => []

/-- The more bit of the next REQUEST (R7, R16, R17). -/
def Exchange.more (x : Exchange) : Bool :=
  if x.bulkWrite then decide (Config.segmentBytes * (x.segmentsDone + 1) < x.payloadLength)
  else x.bulkRead && decide (0 < x.segmentsDone)

/-- The toggle a REQUEST of the exchange carries: the station's, and 0 in a broadcast (R7, R54). -/
def State.requestToggle (s : State) (x : Exchange) : Bool :=
  match x.station with
  | some k => (s.station k).toggle
  | none => false

/-- The next REQUEST of the exchange, with its payload (R7 to R9). -/
def State.requestFrame (s : State) (x : Exchange) (payload : List Byte) : Frame where
  sync := false
  toggle := s.requestToggle x
  more := x.more
  function := x.function.getD Config.syncFunction
  payload := payload

/-- The SYNC frame of a sync step (R51). -/
def syncFrame : Frame where
  sync := true
  toggle := false
  more := false
  function := Config.syncFunction
  payload := []

/-- The engine holds a frame prepared and goes to QUIET to send it (R21). -/
def State.sendFrame (s : State) (n : LineId) (f : Frame) : State :=
  s.modLine n fun l => { l.newAttempt with frame := some f, job := none }

/-- The preparation of the next REQUEST (R21): to DELIVER when its payload must be read, otherwise straight to QUIET. -/
def State.prepareRequest (s : State) (n : LineId) : State :=
  match (s.line n).exchange with
  | none => s
  | some x =>
    match x.readNeeded with
    | some (address, length) => s.modLine n fun l => l.enterDeliver (.payloadRead address length [])
    | none => s.sendFrame n (s.requestFrame x x.heldPayload)

/-- The first frame of the exchange is a SYNC (R51): a PROBE always, another when its station's resync flag is set. -/
def State.beginsWithSync (s : State) (x : Exchange) : Bool :=
  match x.station with
  | some k => x.source == .probe || (s.station k).resync
  | none => false

/-- The preparation of the first frame of the exchange (R21, R51). -/
def State.prepareFirst (s : State) (n : LineId) : State :=
  match (s.line n).exchange with
  | none => s
  | some x => if s.beginsWithSync x then s.sendFrame n syncFrame else s.prepareRequest n

/-- A new budget begins: attempts used 0 and the first failure kind cleared (R46). -/
def Exchange.newBudget (x : Exchange) : Exchange := { x with attemptsUsed := 0, firstFailure := none }

/-! ## Dispatch -/

/-- A fresh exchange record (R44). -/
def Exchange.fresh (source : Source) (origin : Origin) : Exchange where
  source := source
  origin := origin
  station := none
  address := 0
  function := none
  responseTimeout := 0
  retryLimit := 0
  payload := .none
  destination := .none
  maxSegments := 1
  attemptsUsed := 0
  attemptsTotal := 0
  busyCount := 0
  segmentsDone := 0
  delivered := 0
  residue := 0
  firstFailure := none
  lastFailure := none
  frameSent := false
  status := none
  detail := 0
  stationState := noStationCode
  reply := none

/-- The exchange is bound to a station: slot, address, and the two settings copied at dispatch (R21, R44). -/
def Exchange.bind (x : Exchange) (k : SlotId) (st : Station) : Exchange :=
  { x with station := some k, address := st.address, responseTimeout := st.responseTimeout, retryLimit := st.retryLimit }

/-- Where a request's payload comes from (R44). -/
def Request.payloadSource (r : Request) : PayloadSource :=
  if r.payloadLength = 0 then .none
  else if r.inlinePayload then .inlineBytes (r.payloadArea.take r.payloadLength)
  else .host r.payloadAddress r.payloadLength

/-- The exchange of a request record before it is bound to a station (R44, R45); the residue of a bulk write is at first its whole
payload (R60). -/
def Request.exchange (r : Request) (source : Source) : Exchange :=
  { Exchange.fresh source (.request r) with
    function := some r.function
    payload := r.payloadSource
    destination := if r.bulkWrite || r.broadcast then .none else .buffer r.responseAddress r.responseCapacity
    maxSegments := r.maxSegments
    residue := if r.bulkWrite then r.payloadLength else 0 }

/-- The exchange of a poll entry before it is bound to its station (R45, R99). -/
def Poll.exchange (p : Poll) (id : PollId) : Exchange :=
  { Exchange.fresh .poll (.poll id) with
    function := some p.function, payload := .template p.template, destination := .pollSlot }

/-- The exchange of a follow-up entry before it is bound to its station (R45). -/
def FollowUp.exchange (f : FollowUp) : Exchange :=
  match f.kind with
  | .eventFetch =>
    { Exchange.fresh .eventFetch (.followUp f.slot) with
      function := some Config.eventFetchFunction, destination := .staging }
  | .probe => Exchange.fresh .probe (.followUp f.slot)

/-- The engine takes an exchange with a station: the station's busy flag is set and the first frame is prepared (R21). -/
def State.takeBound (s : State) (n : LineId) (x : Exchange) (k : SlotId) : State :=
  ((s.modLine n fun l => { l with exchange := some (x.bind k (s.station k)) }).modStation k
    fun st => { st with busy := true }).prepareFirst n

/-- The engine takes a broadcast: no station, one attempt (R56). -/
def State.takeBroadcast (s : State) (n : LineId) (r : Request) : State :=
  (s.modLine n fun l => { l with exchange := some (r.exchange .broadcast) }).prepareFirst n

end Sys2Proof.Machine
end

