-- ==== Sys2Proof/Machine/Arbiter.lean ====
section
/-! DEFINITION. The Line Arbiter: the choice of work, the dispatch checks, the entry to IDLE and the completion claims of a line
(chapter 6, R35, R39, R78, R79, R99 to R101). -/

namespace Sys2Proof.Machine

/-! ## The work of a line -/

/-- A piece of work the arbiter can choose (R114). -/
inductive Work where
  | request (r : Request)
  | poll (id : PollId)
  | followUp (f : FollowUp)
  deriving DecidableEq, Repr

/-- The first DUE entry of the line's list (R114 step 4). -/
def State.firstDue (s : State) (n : LineId) : Option PollId :=
  (s.line n).pollList.find? fun id => (s.poll id).state == .due

/-- The head of the follow-up queue, when it is of the given kind (R114 steps 2 and 5). -/
def Line.headOf (l : Line) (kind : FollowKind) : Option FollowUp :=
  l.followUp.head?.filter fun f => f.kind == kind

/-- The oldest URGENT record (R109). -/
def Line.oldestUrgent (l : Line) : Option Request := l.prefetched.find? fun r => r.urgent

/-- The oldest normal record (R109). -/
def Line.oldestNormal (l : Line) : Option Request := l.prefetched.find? fun r => !r.urgent

/-- The normal record that step 3 of R114 takes. -/
def Line.sharedNormal (l : Line) : Option Request :=
  if decide (0 < l.config.oneShotShare) && decide (l.config.oneShotShare ≤ l.share) then l.oldestNormal else none

/-- The work the arbiter chooses: the first step of R114 that applies. -/
def State.nextWork (s : State) (n : LineId) : Option Work :=
  let l := s.line n
  (l.oldestUrgent.map .request).orElse fun _ =>
  ((l.headOf .probe).map .followUp).orElse fun _ =>
  (l.sharedNormal.map .request).orElse fun _ =>
  ((s.firstDue n).map .poll).orElse fun _ =>
  ((l.headOf .eventFetch).map .followUp).orElse fun _ =>
  l.oldestNormal.map .request

/-- The chosen request leaves the prefetch queue (R109): the oldest of its class. -/
def Line.removeRequest (l : Line) (r : Request) : Line :=
  { l with prefetched := l.prefetched.eraseP fun q => q.urgent == r.urgent }

/-- The share counter after a request passes its check (R115). -/
def Line.shareAfterRequest (l : Line) (r : Request) : Line := if r.urgent then l else { l with share := 0 }

/-! ## Completions of a line -/

/-- The station state code a completion carries for a slot, or for no station (R149). -/
def State.stationStateCode (s : State) (k : Option SlotId) : BitVec 3 := k.elim noStationCode fun j => (s.station j).state.code

/-- The stamp a completion of line n carries now (R149). -/
def State.stampNow (s : State) (n : LineId) : Half := stampOf (s.line n).counters.cycle

/-- The completion of a request that reaches no exchange (R39, R78): counts 0. -/
def State.checkCompletion (s : State) (n : LineId) (r : Request) (status : Status) (found : Option SlotId) : Completion where
  tag := r.tag
  status := status
  detail := 0
  kind := .request
  stationState := s.stationStateCode found
  origin := byteOf n.val
  attempts := 0
  segments := 0
  delivered := 0
  residue := 0
  stamp := s.stampNow n

/-- The detail of a report that shows the skipped counter (R98, R100). -/
def skippedDetail (skipped : Nat) : Byte := byteOf (min skipped 255)

/-- A report of a poll entry that made no exchange: an overrun (R98) or a skipped dispatch (R100). -/
def State.skipReport (s : State) (n : LineId) (id : PollId) (status : Status) : Completion where
  tag := BitVec.ofNat 32 id.val
  status := status
  detail := skippedDetail (s.poll id).skipped
  kind := .poll
  stationState := s.stationStateCode (some (s.poll id).station)
  origin := byteOf id.val
  attempts := 0
  segments := 0
  delivered := 0
  residue := 0
  stamp := s.stampNow n

/-- A claim of line n while its engine is IDLE: the engine waits in COMPLETE_WAIT when it is not granted (R35, R78). -/
def State.claimOrWait (s : State) (n : LineId) (c : Completion) : State :=
  match s.tryClaim (lineClaimant n) c with
  | some t => t
  | none => s.modLine n fun l => { l.leave with engine := .completeWait, claim := some c }

/-! ## Dispatch checks (R78, R79, R116) -/

/-- The dispatch of a request that has left the prefetch queue (R78, R115). -/
def State.dispatchRequest (s : State) (n : LineId) (r : Request) : State :=
  let pass := fun (t : State) => t.modLine n fun l => l.shareAfterRequest r
  if r.broadcast then (pass s).takeBroadcast n r
  else
    match s.lookup n r.address with
    | none => s.claimOrWait n (s.checkCompletion n r .noStation none)
    | some k =>
      match (s.station k).state with
      | .held => s.claimOrWait n (s.checkCompletion n r .stationHeld (some k))
      | .offline =>
        if r.force then (pass s).takeBound n (r.exchange .request) k
        else s.claimOrWait n (s.checkCompletion n r .stationOffline (some k))
      | .absent | .probing | .online | .suspect => (pass s).takeBound n (r.exchange .request) k

/-- The dispatch of a DUE entry: IN_FLIGHT when its station passes (R99), skipped when it is HELD or OFFLINE (R100). -/
def State.dispatchPoll (s : State) (n : LineId) (id : PollId) : State :=
  let p := s.poll id
  if (s.station p.station).state.pollable then
    ((s.modPoll id fun q => { q with state := .inFlight }).modLine n fun l => { l with share := satSucc 15 l.share }).takeBound n
      (p.exchange id) p.station
  else
    let t := s.modPoll id fun q => { q with state := .idle, skipped := satSucc Config.counterMax q.skipped }
    let status := if (s.station p.station).state = .offline then .stationOffline else .stationHeld
    if p.mode = .always then t.claimOrWait n (t.skipReport n id status) else t

/-- The dispatch of a follow-up entry that has left the queue (R79, R110, R116, R123). -/
def State.dispatchFollowUp (s : State) (n : LineId) (f : FollowUp) : State :=
  let state := (s.station f.slot).state
  let passes : Bool := match f.kind with
    | .eventFetch => state.pollable && s.capture.passesDispatch n
    | .probe => state == .offline
  if passes then s.takeBound n f.exchange f.slot else (s.returnFor f).deferredApply

/-- The arbiter takes its chosen work out of its queue and dispatches it (R109, R110, R114). -/
def State.dispatch (s : State) (n : LineId) : Work → State
  | .request r => (s.modLine n fun l => l.removeRequest r).dispatchRequest n r
  | .poll id => s.dispatchPoll n id
  | .followUp f => (s.modLine n fun l => { l with followUp := l.followUp.drop 1 }).dispatchFollowUp n f

/-- The arbiter may choose: engine IDLE, line not STOPPING, device RUNNING (R113). -/
def State.mayChoose (s : State) (n : LineId) : Bool :=
  (s.line n).engine == .idle && (s.line n).stopping.isNone && s.hbi.device == .running

/-- Choices until work passes, a claim waits or no work is left (R116). -/
def State.chooseLoop (n : LineId) : Nat → State → State
  | 0, s => s
  | fuel + 1, s =>
    if s.mayChoose n then
      match s.nextWork n with
      | some w => chooseLoop n fuel (s.dispatch n w)
      | none => s
    else s

/-- The pieces of work a line could choose: every choice that does not end the loop uses one up. -/
def Line.workCount (l : Line) : Nat := l.prefetched.length + l.pollList.length + l.followUp.length

/-- The arbiter of line n makes its choice (R113, R116). -/
def State.arbiterChoice (s : State) (n : LineId) : State := s.chooseLoop n ((s.line n).workCount + 1)

/-- A stopping engine in IDLE completes the prefetched requests ABORTED, oldest first (R39, R117). -/
def State.abortLoop (n : LineId) : Nat → State → State
  | 0, s => s
  | fuel + 1, s =>
    match (s.line n).engine, (s.line n).prefetched with
    | .idle, r :: rest =>
      abortLoop n fuel ((s.modLine n fun l => { l with prefetched := rest }).claimOrWait n (s.checkCompletion n r .aborted none))
    | _, _ => s

/-- The prefetched requests of a stopping line are completed ABORTED while claims are granted (R39). -/
def State.abortPrefetched (s : State) (n : LineId) : State := s.abortLoop n (s.line n).prefetched.length

/-! ## Leaving an exchange -/

/-- A poll entry is freed: it leaves its line's list and takes its reset values (R91, R107). -/
def State.freePoll (s : State) (id : PollId) : State :=
  (s.modLine (s.poll id).line fun l => { l with pollList := l.pollList.filter fun k => k != id }).modPoll id fun _ => .free

/-- The entry of a POLL exchange as its engine enters IDLE or OFF (R101, R107). -/
def State.settlePoll (s : State) (id : PollId) : State :=
  match (s.poll id).state with
  | .inFlight => s.modPoll id fun p => { p with state := if p.dueAgain then .due else .idle, dueAgain := false }
  | .deleting => s.freePoll id
  | .free | .idle | .due => s

/-- The engine leaves its exchange: the station's busy flag clears (R35, R87) and a poll entry is settled (R101). -/
def State.leaveExchange (s : State) (n : LineId) : State :=
  match (s.line n).exchange with
  | none => s
  | some x =>
    let t := match x.station with
      | some k => s.modStation k fun st => { st with busy := false }
      | none => s
    match x.origin with
    | .poll id => t.settlePoll id
    | .request _ | .followUp _ => t

/-- A cycle timer that runs can expire (R94). -/
def CycleTimer.isRunning : CycleTimer → Bool
  | .running _ => true
  | .stopped | .frozen => false

/-- A cycle start of line n comes together with the event in hand: it is the command that waits first, and the timer runs (DESIGN CHOICE, log
entry 40). -/
def State.cycleStartComes (s : State) (n : LineId) : Bool :=
  match s.pending with
  | .cycleStart k :: _ => k == n && (s.line n).cycleTimer.isRunning
  | _ => false

/-- The engine's exchange is that of a poll entry which R101 makes DUE when it is left: its due-again flag is set. -/
def State.returnsDue (s : State) (n : LineId) : Bool :=
  match (s.line n).exchange with
  | some x =>
    match x.origin with
    | .poll id => (s.poll id).state == .inFlight && (s.poll id).dueAgain
    | .request _ | .followUp _ => false
  | none => false

/-- The engine enters IDLE (R35, R87, R101, R113): the exchange is left, a deferred command applies, then a stopping line completes
its prefetched requests and another makes its choice. An entry that becomes DUE as a cycle start comes together with this event is lost to
that cycle start (R97), so the choice waits for it: `State.cycleExpiry` makes it afresh (R99; log entry 40). -/
def State.enterIdle (s : State) (n : LineId) : State :=
  let t := ((s.leaveExchange n).modLine n Line.idle).deferredApply
  if (t.line n).stopping.isSome then t.abortPrefetched n
  else if s.returnsDue n && t.cycleStartComes n then t
  else t.arbiterChoice n

/-- The engine enters OFF (R39, R87, R101): the exchange is left, and a deferred command applies. -/
def State.enterOff (s : State) (n : LineId) : State := ((s.leaveExchange n).modLine n Line.off).deferredApply

/-- A completion claim at an exchange end: IDLE when granted, COMPLETE_WAIT while not (R35). -/
def State.endClaim (s : State) (n : LineId) (c : Completion) : State :=
  match s.tryClaim (lineClaimant n) c with
  | some t => t.enterIdle n
  | none => s.modLine n fun l => { l.leave with engine := .completeWait, claim := some c, job := none, cutting := false }

end Sys2Proof.Machine
end

