-- ==== Sys2Proof/Machine/Exchange.lean ====
section
/-! DEFINITION. The course of an exchange: failed attempts, response judgement, data movement in DELIVER, slot delivery and report of
a poll, and the exchange end (chapters 1 and 3, R41 to R43, R101 to R106, R111). -/

namespace Sys2Proof.Machine

/-! ## The offer at an exchange end (R77, R111) -/

/-- The four conditions of R111, with the two flags of R77. -/
def State.offerAccepted (s : State) (n : LineId) (k : SlotId) : Bool :=
  let l := s.line n
  let st := s.station k
  st.eventPending && st.captureEnable && l.stopping.isNone && s.hbi.device == .running &&
    l.followUp.all (fun f => f.slot != k) && decide (l.followUp.length < Config.followUpDepth) && s.capture.admits

/-- The engine offers an EVENT_FETCH for the station: queued with its reservation, or declined (R111, R122). -/
def State.offerFetch (s : State) (n : LineId) (k : SlotId) : State :=
  if s.offerAccepted n k then
    s.reserve.modLine n fun l => { l with followUp := l.followUp ++ [{ kind := .eventFetch, slot := k }] }
  else s

/-- The offer for the exchange's station; none for a broadcast. -/
def State.offerFor (s : State) (n : LineId) (x : Exchange) : State :=
  match x.station with
  | some k => s.offerFetch n k
  | none => s

/-! ## Poll slots and reports -/

/-- The status a slot delivery records, and the final status without a cut or a slot fault (R102, R103, R105). -/
def Poll.lineStatus (p : Poll) (x : Exchange) : Status :=
  match x.reply with
  | some payload => if payload.length ≤ p.capacity then .ok else .truncated
  | none => x.status.getD .aborted

/-- The bytes a slot delivery writes into the data area: the first W bytes of an accepted payload (R102, R103). -/
def Poll.slotData (p : Poll) (x : Exchange) : List Byte := (x.reply.getD []).take p.capacity

/-- The final status of R105: ABORTED for an exchange cut during its delivery (R42, R103). -/
def Poll.finalStatus (p : Poll) (x : Exchange) (cut : Bool) : Status := if cut then .aborted else p.lineStatus x

/-- The signature of a good payload (R105). -/
def Exchange.signature (x : Exchange) : Option Half := x.reply.map crc16

/-- The report decision of R105. -/
def Poll.reports (p : Poll) (final : Status) (signature : Option Half) : Bool :=
  p.slotFault ||
    (match p.mode with
     | .never => false
     | .always => true
     | .onError => final != .ok
     | .onChange => p.lastStatus != some final || (signature.isSome && p.lastSignature != signature))

/-- After the decision the last status becomes the final status, and the last signature a good payload's (R105). -/
def Poll.afterReport (p : Poll) (final : Status) (signature : Option Half) : Poll :=
  { p with lastStatus := some final, lastSignature := signature.orElse fun _ => p.lastSignature }

/-- The report of a POLL exchange (R104, R106). The station state is the one after step 1, also when a MODIFY STATION taken during the
slot delivery has changed the entry since. -/
def State.pollCompletion (s : State) (n : LineId) (id : PollId) (x : Exchange) (cut : Bool) : Completion :=
  let p := s.poll id
  let length := (x.reply.getD []).length
  { tag := BitVec.ofNat 32 id.val
    status := if p.slotFault then .busError else p.finalStatus x cut
    detail := if p.slotFault then (x.status.getD .aborted).code else if cut then 0 else x.detail
    kind := .poll
    stationState := x.stationState
    origin := byteOf id.val
    attempts := x.attemptsTotal
    segments := x.segmentsDone
    delivered := if p.slotFault then 0 else min length p.capacity
    residue := if p.slotFault then length else length - p.capacity
    stamp := s.stampNow n }

/-- The report decision and steps 3 to 5 of a POLL exchange (R65, R101, R105): the offer, then the claim when a report is due. An exchange
cut during its delivery leaves ABORTED as the last status also when a slot write of it ended with a bus error (R104, R105; DEDUCED, log
entry 31). -/
def State.pollReport (s : State) (n : LineId) (id : PollId) (x : Exchange) : State :=
  let cut := (s.line n).cutting
  let p := s.poll id
  let final := p.finalStatus x cut
  let t := (s.modPoll id fun q => q.afterReport final x.signature).offerFor n x
  if p.reports final x.signature then t.endClaim n (t.pollCompletion n id x cut) else t.enterIdle n

/-- Step 2 of a POLL exchange (R101): the slot delivery begins, or is skipped under a slot fault (R104). -/
def State.deliverSlot (s : State) (n : LineId) (id : PollId) (x : Exchange) : State :=
  let p := s.poll id
  if p.slotFault then s.pollReport n id x
  else
    (s.modPoll id fun q => { q with generation := q.generation + 1 }).modLine n fun l =>
      l.enterDeliver (.slotWrite .oddGeneration (p.lineStatus x) (p.slotData x) 0 0)

/-! ## The exchange end (R65) -/

/-- The completion of a REQUEST or BROADCAST exchange (R65). -/
def State.requestCompletion (s : State) (n : LineId) (r : Request) (x : Exchange) : Completion where
  tag := r.tag
  status := x.status.getD .aborted
  detail := x.detail
  kind := .request
  stationState := x.stationState
  origin := byteOf n.val
  attempts := x.attemptsTotal
  segments := x.segmentsDone
  delivered := x.delivered
  residue := x.residue
  stamp := s.stampNow n

/-- Step 1 of the exchange end (R64): resync decision and health accounting at the station; a broadcast skips it. A notice flag it sets
is claimed for in the same event (R81). -/
def State.accountExchange (s : State) (x : Exchange) (status : Status) : State :=
  match x.station with
  | some k => (s.modStation k fun st => st.exchangeEnd status x.frameSent).postNotices
  | none => s

/-- The code of the state of the exchange's station after step 1 (R64, R65); for a broadcast the value for no station. -/
def State.stateAfterStep1 (s : State) (x : Exchange) (status : Status) : BitVec 3 :=
  x.station.elim noStationCode fun k => ((s.station k).exchangeEnd status x.frameSent).state.code

/-- Steps 2 and 3 of the exchange end (R65), by the source of the exchange. -/
def State.informBlocks (s : State) (n : LineId) (x : Exchange) : State :=
  match x.origin with
  | .poll id => s.deliverSlot n id x
  | .request r =>
    let t := s.offerFor n x
    t.endClaim n (t.requestCompletion n r x)
  | .followUp _ =>
    if x.source = .eventFetch then
      (((s.handOver n (s.capture.staging[n]).isSome).deferredApply).offerFor n x).enterIdle n
    else (s.offerFor n x).enterIdle n

/-- The exchange of line n ends with a status and a detail (R65). -/
def State.endExchange (s : State) (n : LineId) (status : Status) (detail : Byte) : State :=
  match (s.line n).exchange with
  | none => s
  | some x =>
    let y := { x with status := some status, detail := detail, stationState := s.stateAfterStep1 x status }
    ((s.modLine n fun l => { l.leave with exchange := some y, job := none }).accountExchange y status).informBlocks n y

/-- The exchange of line n is ended by the device's entry to FAULTED (R43): step 1 with ABORTED unless it has run, no further step, and
the engine goes to OFF. -/
def State.faultEnd (s : State) (n : LineId) : State :=
  match (s.line n).exchange with
  | none => s.enterOff n
  | some x => (if x.status.isSome then s else s.accountExchange x .aborted).enterOff n

/-- The cut of an exchange takes effect (R42, R43): it ends ABORTED, in FAULTED without a completion. -/
def State.cutEnd (s : State) (n : LineId) : State :=
  if s.hbi.device = .faulted then s.faultEnd n else s.endExchange n .aborted 0

/-- An attempt fails (R47): its kind is recorded, a resend that fails is counted (R49), and the same frame is sent again while the budget
allows; otherwise the exchange ends with the last kind, its detail the first kind's status code. -/
def Exchange.recordFailure (x : Exchange) (kind : FailureKind) : Exchange :=
  { x with lastFailure := some kind, firstFailure := some (x.firstFailure.getD kind) }

/-- The attempt in hand of line n fails with a kind (R46, R47). -/
def State.failAttempt (s : State) (n : LineId) (kind : FailureKind) : State :=
  match (s.line n).exchange with
  | none => s
  | some x =>
    let y := (if (s.line n).counted then x else x.countAttempt).recordFailure kind
    let t := s.modLine n fun l => { l with exchange := some y }
    if y.attemptsUsed < y.budget then t.modLine n Line.newAttempt
    else t.endExchange n kind.status (y.firstFailure.getD kind).status.code

/-! ## Data movement in DELIVER -/

/-- What follows a response write (R57, R58). -/
def State.afterWrite (s : State) (n : LineId) : AfterWrite → State
  | .finish status => s.endExchange n status 0
  | .continueRead => (s.modExchange n Exchange.newBudget).prepareRequest n

/-- The bytes of an accepted reply that the buffer takes are written in DELIVER; none need no DELIVER (R57, R61). -/
def State.writeReply (s : State) (n : LineId) (address : Word) (bytes : List Byte) (next : AfterWrite) : State :=
  if bytes.isEmpty then s.afterWrite n next else s.modLine n fun l => l.enterDeliver (.responseWrite address bytes next)

/-! ## Judging a response (R12, R13) -/

/-- The kind code of a CONTROL byte (R11, R191). -/
def controlKind (control : Byte) : Nat := control.toNat % 8

/-- The CONTROL byte is at fault: a bad kind for the frame sent, or bits 7 and 6 not both zero (R11, R12). -/
def badControl (control : Byte) (sync : Bool) : Bool :=
  let kind := controlKind control
  !(kind == 4 || kind == 6 || (kind == 5 && !sync)) || control.getLsbD 6 || control.getLsbD 7

/-- The LENGTH is at fault for the kind (R12). -/
def badLength (control length : Byte) : Bool :=
  decide (64 < length.toNat) || (controlKind control == 5 && length != 1#8) || (controlKind control == 6 && length != 0#8)

/-- A character of a frame at its index: SOF is 0, ADDRESS 1, CONTROL 2, FUNCTION 3, LENGTH 4. -/
def frameByte (frame : List Byte) (k : Nat) : Byte := frame.getD k 0#8

/-- The frame is complete: LENGTH + 7 characters have arrived (R12). -/
def frameComplete (frame : List Byte) : Bool :=
  decide (5 ≤ frame.length) && decide (frame.length = (frameByte frame 4).toNat + 7)

/-- The check of a complete frame is correct (R10, R13). -/
def checkCorrect (frame : List Byte) : Bool :=
  let covered := (frame.drop 1).take (frame.length - 3)
  let last := frame.length
  crc16 covered == frameByte frame (last - 2) ++ frameByte frame (last - 1)

/-- The payload of a complete frame. -/
def framePayload (frame : List Byte) : List Byte := (frame.drop 5).take (frameByte frame 4).toNat

/-- The judgement of a complete frame (R13). -/
inductive Judgement where
  | failed (kind : FailureKind)
  | stale
  | busy
  | refuse (reason : Byte) (eventPending : Bool)
  | reply (payload : List Byte) (more eventPending : Bool)
  deriving DecidableEq, Repr

/-- The four tests of R13 in their order, and what R14 takes from an accepted frame. -/
def judge (frame : List Byte) (address : BitVec 7) (sent : Frame) : Judgement :=
  let control := frameByte frame 2
  if !checkCorrect frame then .failed .checkError
  else if frameByte frame 1 != 1#1 ++ address then .failed .frameError
  else if frameByte frame 3 != sent.function then .failed .frameError
  else if controlKind control = 6 then .busy
  else if control.getLsbD 3 != sent.toggle then .stale
  else if controlKind control = 5 then .refuse (frameByte frame 5) (control.getLsbD 5)
  else .reply (framePayload frame) (control.getLsbD 4) (control.getLsbD 5)

/-- An accepted BUSY (R49): the busy count rises; within the busy limit the engine goes to BACKOFF, beyond it the exchange ends. -/
def State.acceptBusy (s : State) (n : LineId) (x : Exchange) : State :=
  let t := s.modExchange n fun y => { y with busyCount := x.busyCount + 1 }
  if x.busyCount + 1 ≤ (s.line n).config.busyLimit then t.modLine n Line.enterBackoff else t.endExchange n .busyLimit 0

/-- An accepted REFUSE to a REQUEST (R50, R54, R77). -/
def State.acceptRefuse (s : State) (n : LineId) (x : Exchange) (reason : Byte) (eventPending : Bool) : State :=
  let t := match x.station with
    | some k => s.modStation k fun st => st.acceptResponse true eventPending
    | none => s
  t.endExchange n .refused reason

/-- An accepted REPLY to a SYNC (R52): the toggle becomes 0, the resync flag clears; a PROBE ends OK, another exchange prepares its
first REQUEST. -/
def State.acceptSyncReply (s : State) (n : LineId) (x : Exchange) : State :=
  let t := match x.station with
    | some k => s.modStation k Station.acceptSync
    | none => s
  if x.source = .probe then t.endExchange n .ok 0 else t.prepareRequest n

/-- What follows the REPLY of L bytes to a host buffer with room for R more (R57 to R59), segments done already raised. -/
def Exchange.replyNext (x : Exchange) (length room : Nat) (more : Bool) : AfterWrite :=
  if room < length then .finish .truncated
  else if !(x.bulkRead && more) then .finish .ok
  else if x.segmentsDone = x.maxSegments then .finish .segmentLimit
  else .continueRead

/-- A bulk-write segment is acknowledged (R60): delivered rises by its length, and the next segment follows under a new budget. -/
def State.segmentAcknowledged (s : State) (n : LineId) (sent : Frame) : State :=
  let t := s.modExchange n fun y =>
    { y with delivered := y.delivered + sent.payload.length, residue := y.residue - sent.payload.length }
  if sent.more then (t.modExchange n Exchange.newBudget).prepareRequest n else t.endExchange n .ok 0

/-- The payload of an accepted REPLY to a REQUEST goes to the response destination (R31, R57, R58, R60). -/
def State.takeReply (s : State) (n : LineId) (x : Exchange) (sent : Frame) (payload : List Byte) (more : Bool) : State :=
  match x.destination with
  | .none => if x.bulkWrite then s.segmentAcknowledged n sent else s.endExchange n .ok 0
  | .buffer address capacity =>
    let room := capacity - x.delivered
    (s.modExchange n fun y => { y with residue := y.residue + payload.length }).writeReply n
      (address + BitVec.ofNat 32 x.delivered) (payload.take room) (x.replyNext payload.length room more)
  | .pollSlot => (s.modExchange n fun y => { y with reply := some payload }).endExchange n .ok 0
  | .staging =>
    (if payload.isEmpty then s else s.setStaging n (some { payload := payload, address := x.address })).endExchange n .ok 0

/-- An accepted REPLY to a REQUEST (R14, R54, R57, R77): segments done rises, the toggle flips, the event-pending flag follows. -/
def State.acceptReply (s : State) (n : LineId) (x : Exchange) (sent : Frame) (payload : List Byte) (more eventPending : Bool) :
    State :=
  let y := { x with segmentsDone := x.segmentsDone + 1 }
  let t := s.modLine n fun l => { l with exchange := some y }
  let u := match x.station with
    | some k => t.modStation k fun st => st.acceptResponse false eventPending
    | none => t
  u.takeReply n y sent payload more

/-- A STALE frame is discarded (R32): back to AWAIT with the response timer as it runs, or TIMEOUT when it has expired. -/
def State.discardStale (s : State) (n : LineId) : State :=
  match (s.line n).timers.response with
  | .expired => s.failAttempt n .timeout
  | .running _ | .stopped => s.modLine n fun l =>
    { l with engine := .await, received := [], timers := { l.timers with gap := none } }

/-- The engine acts on the judgement of a complete frame (R31). -/
def State.actOn (s : State) (n : LineId) (x : Exchange) (sent : Frame) : Judgement → State
  | .failed kind => s.failAttempt n kind
  | .stale => s.discardStale n
  | .busy => s.acceptBusy n x
  | .refuse reason eventPending => s.acceptRefuse n x reason eventPending
  | .reply payload more eventPending =>
    if sent.sync then s.acceptSyncReply n x else s.acceptReply n x sent payload more eventPending

/-- A complete frame is judged (R13, R31). -/
def State.judgeFrame (s : State) (n : LineId) : State :=
  match (s.line n).exchange, (s.line n).frame with
  | some x, some sent => s.actOn n x sent (judge (s.line n).received x.address sent)
  | _, _ => s

/-! ## Sending -/

/-- TRAIL ends: the first row of R28 that holds. -/
def State.trailEnd (s : State) (n : LineId) : State :=
  let l := s.line n
  if l.cutting then s.cutEnd n
  else if l.mismatch then s.failAttempt n .contention
  else if l.exchange.any fun x => x.source = .broadcast then s.endExchange n .okSent 0
  else s.modLine n Line.enterAwait

/-- The engine goes to TRAIL; with a trail delay of 0 the timer expires on entry (R28). -/
def State.toTrail (s : State) (n : LineId) : State :=
  let t := s.modLine n Line.enterTrail
  if (s.line n).config.trailDelay = 0 then t.trailEnd n else t

/-- The line is quiet: the engine goes to LEAD, and with a lead delay of 0 on to SEND (R23, R25). -/
def State.toLead (s : State) (n : LineId) : State :=
  let t := s.modLine n Line.enterLead
  if (s.line n).config.leadDelay = 0 then t.modLine n Line.enterSend else t

/-- An echo mismatch: contention events rises by 1 and the attempt is marked (R27). -/
def Line.echoMismatch (l : Line) : Line :=
  { l with
    mismatch := true, echoPending := none
    counters := { l.counters with contentions := satSucc Config.counterMax l.counters.contentions } }

/-- The last stop bit of the character in transmission has ended (R26, R27, R41). -/
def State.characterEnd (s : State) (n : LineId) : State :=
  let l := s.line n
  let done := l.sentCount + 1
  if l.echoPending.isSome then (s.modLine n fun l => { l.echoMismatch with sentCount := done }).toTrail n
  else if l.mismatch || l.cutting || decide (l.frameCharacters.length ≤ done) then
    (s.modLine n fun l => { l with sentCount := done }).toTrail n
  else s.modLine n fun l => l.transmit done

/-! ## CUT and FAULTED at an engine (R41, R43) -/

/-- The line's data mover has the burst in progress. -/
def State.moverBusy (s : State) (n : LineId) : Bool :=
  match s.hbi.burst with
  | some b => b.owner == .dataMover n
  | none => false

/-- A cut or fault waits for the end of what the state is doing (R41, R43). -/
def State.markCut (s : State) (n : LineId) : State := s.modLine n fun l => { l with cutting := true }

/-- CUT on the exchange in flight, by the engine's state (R41). In DELIVER of a payload read or a response write, a data mover whose request
waits for its grant has no burst in progress: the request falls, and the exchange ends at once (DESIGN CHOICE, log entry 38). -/
def State.cutLine (s : State) (n : LineId) : State :=
  match (s.line n).engine with
  | .off | .idle | .completeWait => s
  | .quiet | .backoff | .lead | .await | .receive => s.endExchange n .aborted 0
  | .send | .trail => s.markCut n
  | .deliver =>
    match (s.line n).job with
    | some (.slotWrite ..) => s.markCut n
    | _ => if s.moverBusy n then s.markCut n else s.endExchange n .aborted 0

/-- The device's entry to FAULTED at a line's work (R43, R95, R119): the prefetched requests and follow-up entries are gone, the cycle
timer stops. -/
def State.faultWork (n : LineId) (s : State) : State :=
  s.modLine n fun l => { l with prefetched := [], followUp := [], cycleTimer := .stopped }

/-- The device's entry to FAULTED at an engine (R43): the exchange in flight is ended without a completion, by the engine's state. -/
def State.faultLine (n : LineId) (s : State) : State :=
  match (s.line n).engine with
  | .off => s
  | .idle | .quiet | .backoff | .lead | .await | .receive | .completeWait => s.faultEnd n
  | .send | .trail => s.markCut n
  | .deliver => if s.moverBusy n then s.markCut n else s.faultEnd n

end Sys2Proof.Machine
end

