-- ==== Sys2Proof/Machine/Cycle.lean ====
section
/-! DEFINITION. The cycle start of a line: overruns, marking, reprobing (R75, R94 to R98, R112). -/

namespace Sys2Proof.Machine

/-- An entry is due in cycle n when n mod divisor equals its phase (R97). -/
def Poll.dueIn (p : Poll) (cycle : Word) : Bool := cycle.toNat % p.divisor == p.phase

/-- An overrun of an entry is reported in modes ALWAYS and ON_ERROR (R96, R97). -/
def Poll.reportsOverrun (p : Poll) : Bool := p.mode == .always || p.mode == .onError

/-- An overrun of an entry: its state as given, its skipped counter up by 1, an OVERRUN report offered (R96 to R98). -/
def State.overrun (s : State) (n : LineId) (id : PollId) (state : PollState) : State :=
  let t := s.modPoll id fun p => { p with state := state, skipped := satSucc Config.counterMax p.skipped }
  if (s.poll id).reportsOverrun then t.placeReport (t.skipReport n id .overrun) else t

/-- The overrun step at one entry: a DUE entry is cleared (R96). -/
def State.clearOverrun (n : LineId) (s : State) (id : PollId) : State :=
  if (s.poll id).state = .due then s.overrun n id .idle else s

/-- The marking step at one entry (R97). -/
def State.markEntry (n : LineId) (s : State) (id : PollId) : State :=
  let p := s.poll id
  if p.dueIn (s.line n).counters.cycle then
    match p.state with
    | .idle => s.modPoll id fun q => { q with state := .due }
    | .inFlight => if p.dueAgain then s.overrun n id .inFlight else s.modPoll id fun q => { q with dueAgain := true }
    | .free | .due | .deleting => s
  else s

/-- The entry is overrun by the marking step (R97, fourth row). -/
def Poll.losesPoll (p : Poll) (cycle : Word) : Bool := p.state == .inFlight && p.dueAgain && p.dueIn cycle

/-- Some entry of the line's list is overrun at a cycle start of the cycle held (R96, R97). -/
def State.overrunFound (s : State) (n : LineId) : Bool :=
  (s.line n).pollList.any fun id => (s.poll id).state == .due || (s.poll id).losesPoll (s.line n).counters.cycle

/-- The overruns counter rises once for the cycle start, and a LINE_EVENT with cause overrun is latched (R37, R96). -/
def State.countOverruns (s : State) (n : LineId) : State :=
  (s.modLine n fun l =>
    { l with counters := { l.counters with overruns := satSucc Config.counterMax l.counters.overruns } }).lineEvent n .overrun

/-- The overrun step (R96) and the marking step (R97) of a cycle start, in list order. -/
def State.settleCycle (s : State) (n : LineId) : State :=
  let list := (s.line n).pollList
  let t := list.foldl (State.markEntry n) (list.foldl (State.clearOverrun n) s)
  if s.overrunFound n then t.countOverruns n else t

/-- The follow-up queue of line n holds an entry for the slot that satisfies a test. -/
def Line.holdsFor (l : Line) (k : SlotId) (test : FollowUp → Bool) : Bool := l.followUp.any fun f => f.slot == k && test f

/-- The reprobe counter of an OFFLINE entry advances, not past its interval (R75). A counter that MODIFY STATION has left at or above a lowered
interval does not advance either, before its first offer too (DESIGN CHOICE, log entry 36). -/
def Station.advanceReprobe (st : Station) : Station :=
  { st with reprobe := if st.reprobe < st.reprobeInterval then st.reprobe + 1 else st.reprobe }

/-- The PROBE offer for a slot, answered by the follow-up queue (R75, R112). A full queue that holds a PROBE for the station meets two rows
of R112; the offer counts as served (DESIGN CHOICE, log entry 32). -/
def State.offerProbe (s : State) (n : LineId) (k : SlotId) : State :=
  let l := s.line n
  let served := fun (t : State) => t.modStation k fun st => { st with reprobe := 0 }
  if l.holdsFor k (fun f => f.kind == .probe) then served s
  else if decide (l.followUp.length < Config.followUpDepth) && !l.holdsFor k (fun _ => true) then
    served (s.modLine n fun l => { l with followUp := l.followUp ++ [{ kind := .probe, slot := k }] })
  else s

/-- The Station Table at a cycle start, for one slot (R75). -/
def State.reprobeSlot (n : LineId) (s : State) (k : SlotId) : State :=
  if (s.station k).state = .offline ∧ (s.station k).line = n then
    let t := s.modStation k Station.advanceReprobe
    if (t.station k).reprobeInterval ≤ (t.station k).reprobe then t.offerProbe n k else t
  else s

/-- The Station Table at a cycle start: the OFFLINE entries of the line in ascending slot order (R75). -/
def State.advanceReprobes (s : State) (n : LineId) : State := allSlots.foldl (State.reprobeSlot n) s

/-- What a cycle start of line n does before the arbiter's choice: overruns, marking, reprobing (R75, R96, R97). -/
def State.cycleWork (s : State) (n : LineId) : State := (s.settleCycle n).advanceReprobes n

/-- A cycle start of line n, its cycle number and timer already set: entries settled and marked, reprobe counters advanced, and the
arbiter's choice when an entry was marked DUE or a PROBE joined (R94, R113). An IDLE engine's arbiter makes that choice once, after the last
PROBE offer of the cycle start, and not at the marking or at each joining (DESIGN CHOICE, log entry 39). -/
def State.runCycle (s : State) (n : LineId) : State :=
  let t := s.cycleWork n
  if (t.firstDue n).isSome || decide ((s.line n).followUp.length < (t.line n).followUp.length) then t.arbiterChoice n else t

/-- A cycle after cycle 0 begins (R94): the cycle number rises by 1 and wraps, and the timer runs from the full period. -/
def State.beginCycle (s : State) (n : LineId) : State :=
  s.modLine n fun l =>
    { l with
      counters := { l.counters with cycle := l.counters.cycle + 1 }
      cycleTimer := .running l.config.cyclePeriod }

/-- A cycle start after cycle 0, as the return to RUNNING gives it (R94, R95). -/
def State.nextCycle (s : State) (n : LineId) : State := (s.beginCycle n).runCycle n

/-- The cycle timer of line n expires (R94). The arbiter's choice is made afresh after it (R99), also one that an engine's entry to IDLE has
left to it (R97); where the cycle start brings no work and none waits, the choice finds nothing. -/
def State.cycleExpiry (s : State) (n : LineId) : State := ((s.beginCycle n).cycleWork n).arbiterChoice n

/-- The DUE and due-again marks of one entry are cleared without report (R95). -/
def Poll.unmark (p : Poll) : Poll := { p with state := if p.state = .due then .idle else p.state, dueAgain := false }

/-- The marks of the entries of line n are cleared without report (R95). -/
def State.clearMarks (n : LineId) (s : State) : State :=
  (s.line n).pollList.foldl (fun t id => t.modPoll id Poll.unmark) s

end Sys2Proof.Machine
end

