-- ==== Sys2Proof/Machine/Device.lean ====
section
/-! DEFINITION. The device state machine: halting, the halt condition and the return to RUNNING, the entry to FAULTED, the grant of a
freed holding-queue entry (R95, R118, R119, R134, R151, R159, R177 to R180, R187). -/

namespace Sys2Proof.Machine

/-! ## The return from HALTED to RUNNING -/

/-- One reading of the free value: the model's counter advances (log entry 13). -/
def State.nextFree (s : State) : State := { s with free := s.free + 1 }

/-- The free value at the counter held. -/
def State.freeValue (s : State) : Nat := Config.freeChoice s.free

/-- What a running line takes at the return to RUNNING (R118). -/
inductive Resumption where
  | cycleStart | choice
  deriving DecidableEq, Repr

/-- Events of the return in the order in which they are taken: R118 gives none, so each stands at a free place, another line's event
possibly between one line's two (DESIGN CHOICE, log entry 13). -/
def orderEvents : List (LineId × Resumption) → State → List (LineId × Resumption) × State
  | [], s => ([], s)
  | e :: rest, s =>
    let r := orderEvents rest s
    (r.1.insertIdx (r.2.freeValue % (r.1.length + 1)) e, r.2.nextFree)

/-- One event of the return: a line's cycle start, or its arbiter's choice (R95, R113, R118). -/
def State.resume (s : State) (e : LineId × Resumption) : State :=
  match e.2 with
  | .cycleStart => s.nextCycle e.1
  | .choice => s.arbiterChoice e.1

/-- The events of the return: a cycle start and a choice for each running line (R118). -/
def resumptions (lines : List LineId) : List (LineId × Resumption) := lines.flatMap fun n => [(n, .cycleStart), (n, .choice)]

/-- The lines that are neither OFF nor STOPPING (R180). -/
def State.runningLines (s : State) : List LineId := allLines.filter fun n => (s.line n).running

/-- The return to RUNNING (R95, R118, R180): every running line's cycle start and choice, in a free order (DESIGN CHOICE, log
entry 13); then the ring-fetch requester asks (R143). -/
def State.returnToRunning (s : State) : State :=
  let t := s.modHbi fun h => { h with device := .running }
  let r := orderEvents (resumptions t.runningLines) t
  (r.1.foldl State.resume r.2).askFetch

/-! ## Halting -/

/-- A line is at rest: OFF, or IDLE with STOPPING clear (R180). -/
def Line.atRest (l : Line) : Bool := l.engine == .off || (l.engine == .idle && l.stopping.isNone)

/-- The halt condition (R180). -/
def State.haltCondition (s : State) : Bool := s.admin == .idle && allLines.all fun n => (s.line n).atRest

/-- The halt condition is tested in HALTING (R180): HALTED with its cause latched, or back to RUNNING when ENABLE is set. -/
def State.haltTest (s : State) : State :=
  if s.hbi.device = .halting ∧ s.haltCondition then
    if s.hbi.enable then s.returnToRunning
    else (s.modHbi fun h => { h with device := .halted }).latch .halted
  else s

/-- What the part does by itself at the end of an event: the halt condition is tested (R180), and the ring-fetch requester asks for a ring
when it is free and one has become eligible (R143, R185). -/
def State.eventEnd (s : State) : State := s.haltTest.askFetch

/-- A record fetch under way will not take its record (R147). -/
def State.voidFetch (s : State) (test : RingId → Bool) : State :=
  match s.hbi.burst with
  | some b =>
    match b.owner with
    | .ringFetch r => if test r then s.modRingUnit fun u => { u with fetchVoid := true } else s
    | _ => s
  | none => s

/-- A running cycle timer freezes (R95). -/
def CycleTimer.freeze : CycleTimer → CycleTimer
  | .running _ => .frozen
  | .stopped => .stopped
  | .frozen => .frozen

/-- The entry to HALTING at a line (R95, R118): the timer freezes, marks clear, EVENT_FETCH entries are dropped. -/
def State.haltLine (n : LineId) (s : State) : State :=
  (State.clearMarks n (s.modLine n fun l => { l with cycleTimer := l.cycleTimer.freeze })).dropFollowUps n
    fun f => f.kind == .eventFetch

/-- The entry to HALTING (R147, R179): the halt condition is tested at once (R180). -/
def State.enterHalting (s : State) : State :=
  let t := (s.modHbi fun h => { h with device := .halting }).voidFetch fun _ => true
  (((t.modRingUnit fun u => { u with claim := none, requested := none }).forLines State.haltLine).deferredApply).haltTest

/-! ## FAULTED -/

/-- The Admin Processor at the device's entry to FAULTED (R159): a waiting claim is withdrawn; a data write goes on only when its burst
is granted; a deferred command waits for its condition. -/
def State.faultAdmin (s : State) : State :=
  match s.admin with
  | .idle | .deferred .. => s
  | .claiming _ => s.setAdmin .idle
  | .writing .. =>
    if s.hbi.burst.any fun b => b.owner == .adminWriter then s else s.setAdmin .idle

/-- The entry to FAULTED (R187); in FAULTED already, the cause first recorded stays and nothing more is latched. -/
def State.enterFaulted (s : State) (cause : FaultCause) : State :=
  if s.hbi.device = .faulted then s
  else
    let t := (s.modHbi fun h => { h with device := .faulted, faultCause := cause }).latch .deviceFault
    let u := ((t.modRingUnit fun u => { u with claim := none, requested := none }).modWriter fun w => { w with holdoffTimer := none }).modCapture
      Capture.deviceFault
    ((((u.forLines State.clearMarks).forLines State.faultWork).forLines State.faultLine).faultAdmin).deferredApply

/-! ## The grant of a freed entry (R151) -/

/-- A waiting MALFORMED claim is granted, or a MALFORMED record is granted at once: the take is made (R146). -/
def State.takeMalformed (s : State) (n : LineId) (c : Completion) : State :=
  (((s.grantTo ringClaimant c).modRingUnit fun u => { u with claim := none }).modRing (ringOfLine n) fun g =>
    { g with consumer := g.consumer + 1 }).markShadow

/-- A waiting line's claim is granted: its completion joins the queue and the engine goes to IDLE (R35). -/
def State.grantLine (s : State) (n : LineId) (c : Completion) : State := (s.grantTo (lineClaimant n) c).enterIdle n

/-- What granting claimant k does, when it has a waiting claim (R151). -/
def State.grantClaimant (s : State) (k : Fin 7) : Option State :=
  match k with
  | 0 => (s.line 0).claim.map (s.grantLine 0)
  | 1 => (s.line 1).claim.map (s.grantLine 1)
  | 2 => (s.line 2).claim.map (s.grantLine 2)
  | 3 => (s.line 3).claim.map (s.grantLine 3)
  | 4 =>
    match s.admin with
    | .claiming c => some ((s.grantTo adminClaimant c).setAdmin .idle)
    | .idle | .writing .. | .deferred .. => none
  | 5 => s.ringUnit.claim.map fun q => s.takeMalformed q.1 q.2
  | 6 => s.nextNotice.map s.postNotice

/-- The claimants in round-robin order from the pointer (R151). -/
def claimOrder (pointer : Fin 7) : List (Fin 7) := [0, 1, 2, 3, 4, 5, 6].map (pointer + ·)

/-- A free entry is granted to the first waiting claimant counting from the pointer (R151). -/
def State.grantOne (s : State) : State :=
  if s.hasRoom && s.hbi.device != .faulted then
    ((claimOrder s.writer.pointer).findSome? s.grantClaimant).getD s
  else s

/-- A claim waits for a holding-queue entry (R151). -/
def State.claimWaits (s : State) : Bool := ((claimOrder s.writer.pointer).findSome? s.grantClaimant).isSome

/-- A cycle start of line n, taken now, would offer an OVERRUN report (R96 to R98). -/
def State.overrunDue (s : State) (n : LineId) : Bool :=
  (s.line n).pollList.any fun id =>
    (s.poll id).reportsOverrun && ((s.poll id).state == .due || (s.poll id).losesPoll ((s.line n).counters.cycle + 1))

/-- A cycle start that places an OVERRUN report can come at this moment (R98): it is the command that waits first (DESIGN CHOICE, log
entry 13). -/
def State.overrunComes (s : State) : Bool :=
  match s.pending with
  | .cycleStart n :: _ => (s.line n).cycleTimer.isRunning && s.overrunDue n
  | _ => false

/-- A written completion has freed an entry (R151, R152 step 1): it is granted in this event if a claim waits. One case apart, which R98
gives: a cycle start comes at the same moment, is taken first, and its OVERRUN report takes the entry, so the claimant goes on waiting.
Which of the two is taken first is a free value (log entry 13). -/
def State.grantFreed (s : State) : State :=
  if s.claimWaits && s.overrunComes then
    if s.freeValue % 2 = 0 then s.nextFree.grantOne else s.nextFree
  else s.grantOne

/-! ## Completion moderation (R184) -/

/-- COMPLETION is due: the threshold is 0 or the count has reached it (R184). -/
def CompletionWriter.thresholdReached (w : CompletionWriter) : Bool :=
  w.threshold == 0#8 || decide (w.threshold.toNat ≤ w.moderationCount)

/-- A written completion is counted for moderation (R184). -/
def State.countWritten (s : State) : State :=
  let t := s.modWriter fun w =>
    { w with
      moderationCount := satSucc 255 w.moderationCount
      holdoffTimer := if w.holdoffTimer.isNone && decide (0 < w.holdoff.toNat) then some w.holdoff.toNat else w.holdoffTimer }
  if t.writer.thresholdReached then t.latch .completion else t

/-- Acknowledging COMPLETION: the count is 0 and the timer stops (R182, R184). -/
def CompletionWriter.acknowledge (w : CompletionWriter) : CompletionWriter :=
  { w with moderationCount := 0, holdoffTimer := none }

end Sys2Proof.Machine
end

