-- ==== Sys2Proof/Machine/Admin.lean ====
section
/-! DEFINITION. The admin commands as the Admin Processor treats them at the take of their record (chapter 9): checks, conditions,
effect and claim (R156 to R173). -/

namespace Sys2Proof.Machine

/-! ## Steps shared by the commands -/

/-- The processor ends a command without a data write (R156 step 5, R157). -/
def State.adminEnd (s : State) (tag : Half) (code : Byte) (status : Status) (detail : Byte) (stationState : BitVec 3) : State :=
  s.adminClaim (adminCompletion tag code status detail 0 0 stationState)

/-- A command ends DONE with detail 0 and no station (R157). -/
def State.adminDone (s : State) (tag : Half) (code : Byte) : State := s.adminEnd tag code .done 0 noStationCode

/-- Step 2 of R156: a nonzero reserved byte is argument 0, otherwise the first argument out of range. -/
def argumentFault (reserved : Bool) (checks : List Bool) : Option Nat := if reserved then some 0 else firstTrue checks 1

/-- Steps 2 to 5 of R156: BAD_ARGUMENT, or the rest of the command. -/
def State.withArguments (s : State) (tag : Half) (code : Byte) (fault : Option Nat) (rest : State → State) : State :=
  match fault with
  | some k => s.adminEnd tag code .badArgument (byteOf k) noStationCode
  | none => rest s

/-! ## Lines -/

/-- CONFIGURE LINE (R160). -/
def State.runConfigureLine (s : State) (tag : Half) (body : AdminBody) : State :=
  s.withArguments tag 0x01#8 (argumentFault (reservedNonzero body (offsetsFrom 18)) (configureLineChecks body)) fun s =>
    let n := lineOf (argNat body 3)
    if (s.line n).engine = .off then
      (s.modLine n fun l => { l with config := configureLineSettings body }).adminDone tag 0x01#8
    else s.adminEnd tag 0x01#8 .wrongState 0 noStationCode

/-- START LINE (R161): the engine starts, and the cycle start of cycle 0 is taken (R94). The line's claims of that cycle start are made
before the command's own, which R113 and R151 leave open (DESIGN CHOICE, log entry 33). -/
def State.runStartLine (s : State) (tag : Half) (body : AdminBody) : State :=
  s.withArguments tag 0x02#8 (argumentFault (reservedNonzero body (offsetsFrom 4)) [outside 0 3 (argNat body 3)]) fun s =>
    let n := lineOf (argNat body 3)
    if (s.line n).engine = .off then ((s.modLine n Line.start).runCycle n).adminDone tag 0x02#8
    else s.adminEnd tag 0x02#8 .wrongState 0 noStationCode

/-- The Ring Unit withdraws a waiting MALFORMED claim of the line's ring (R147). -/
def State.withdrawMalformed (s : State) (n : LineId) : State :=
  s.modRingUnit fun u => { u with claim := u.claim.filter fun q => q.1 != n }

/-- The effects of a STOP LINE on the line's work (R39, R95): STOPPING set, follow-up queue emptied, cycle timer stopped, marks cleared,
the take under way refused. -/
def State.setStopping (s : State) (n : LineId) (mode : StopMode) : State :=
  ((State.clearMarks n ((s.modLine n fun l => { l with stopping := some mode, cycleTimer := .stopped }).dropFollowUps n
    fun _ => true)).withdrawMalformed n).voidFetch fun r => r == ringOfLine n

/-- STOP LINE taken for a line that is not OFF (R39 to R41, R162). -/
def State.stopTaken (s : State) (n : LineId) (mode : StopMode) : State :=
  let t := s.setStopping n mode
  (match mode with
   | .drain => t
   | .cut => t.cutLine n).abortPrefetched n

/-- STOP LINE (R162). -/
def State.runStopLine (s : State) (tag : Half) (body : AdminBody) : State :=
  s.withArguments tag 0x03#8 (argumentFault (reservedNonzero body (offsetsFrom 5))
      [outside 0 3 (argNat body 3), outside 0 1 (argNat body 4)]) fun s =>
    let n := lineOf (argNat body 3)
    if (s.line n).engine = .off then s.adminDone tag 0x03#8
    else (s.setAdmin (.deferred tag (.stopLine n))).stopTaken n (if argNat body 4 = 0 then .drain else .cut)

/-! ## Stations -/

/-- The slot DEFINE STATION fills: the one named, or the lowest ABSENT one (R163). -/
def State.slotToFill (s : State) (arg : Nat) : Option SlotId :=
  if arg = anyFF then allSlots.find? fun k => (s.station k).state == .absent else some (slotOf arg)

/-- The station state a refused DEFINE STATION carries (R157): none with slot FFh, the named slot's otherwise. -/
def State.namedStateCode (s : State) (arg : Nat) : BitVec 3 :=
  if arg = anyFF then noStationCode else (s.station (slotOf arg)).state.code

/-- DEFINE STATION (R163, R69). -/
def State.runDefineStation (s : State) (tag : Half) (body : AdminBody) : State :=
  s.withArguments tag 0x04#8 (argumentFault (reservedNonzero body (offsetsFrom 11)) (defineStationChecks body)) fun s =>
    let named := argNat body 3
    let line := lineOf (argNat body 4)
    let address := (argByte body 5).setWidth 7
    match s.slotToFill named with
    | none => s.adminEnd tag 0x04#8 .noSpace 0 noStationCode
    | some k =>
      if (s.station k).state ≠ .absent then s.adminEnd tag 0x04#8 .inUse 0 (s.namedStateCode named)
      else if (s.lookup line address).isSome then s.adminEnd tag 0x04#8 .duplicateAddress 0 (s.namedStateCode named)
      else
        (s.modStation k fun _ =>
          Station.define line address (argNat body 6) (argNat body 7) (argNat body 8) (argNat body 9)
            (argNat body 10 != 0)).adminEnd tag 0x04#8 .done (byteOf k.val) StationState.probing.code

/-- MODIFY STATION (R164, R82, R83). A notice flag it sets and its own completion come together: which is claimed first is a free
value (log entry 13). -/
def State.runModifyStation (s : State) (tag : Half) (body : AdminBody) : State :=
  s.withArguments tag 0x05#8 (argumentFault (reservedNonzero body (offsetsFrom 9)) (modifyStationChecks body)) fun s =>
    let k := slotOf (argNat body 3)
    if (s.station k).state = .absent then s.adminEnd tag 0x05#8 .notFound 0 StationState.absent.code
    else
      let t := s.modStation k fun st =>
        st.modify (argNat body 4) (argNat body 5) (argNat body 6) (argNat body 7) (argNat body 8 != 0)
      let finish := fun (u : State) => u.adminEnd tag 0x05#8 .done 0 (t.station k).state.code
      if (t.station k).notice && !(s.station k).notice then
        if t.freeValue % 2 = 0 then finish t.nextFree.postNotices else (finish t.nextFree).postNotices
      else finish t

/-- HOLD STATION (R165, R84, R86). -/
def State.runHoldStation (s : State) (tag : Half) (body : AdminBody) : State :=
  s.withArguments tag 0x07#8 (argumentFault (reservedNonzero body (offsetsFrom 4)) [outside 0 127 (argNat body 3)]) fun s =>
    let k := slotOf (argNat body 3)
    match (s.station k).state with
    | .absent => s.adminEnd tag 0x07#8 .notFound 0 StationState.absent.code
    | .held => s.adminEnd tag 0x07#8 .done 0 StationState.held.code
    | .probing | .online | .suspect | .offline =>
      if (s.station k).busy then
        (s.modStation k fun st => { st with pending := .hold }).setAdmin (.deferred tag (.holdStation k))
      else (s.applyHold k).adminEnd tag 0x07#8 .done 0 StationState.held.code

/-- RELEASE STATION (R166, R85). -/
def State.runReleaseStation (s : State) (tag : Half) (body : AdminBody) : State :=
  s.withArguments tag 0x08#8 (argumentFault (reservedNonzero body (offsetsFrom 4)) [outside 0 127 (argNat body 3)]) fun s =>
    let k := slotOf (argNat body 3)
    if (s.station k).state = .held then
      (s.modStation k Station.release).adminEnd tag 0x08#8 .done 0 StationState.probing.code
    else s.adminEnd tag 0x08#8 .wrongState 0 (s.station k).state.code

/-- A poll entry in use names the slot, DELETING entries included (R167). -/
def State.pollNames (s : State) (k : SlotId) : Bool :=
  allPolls.any fun id => (s.poll id).state != .free && (s.poll id).station == k

/-- REMOVE STATION (R167, R85, R86). -/
def State.runRemoveStation (s : State) (tag : Half) (body : AdminBody) : State :=
  s.withArguments tag 0x06#8 (argumentFault (reservedNonzero body (offsetsFrom 4)) [outside 0 127 (argNat body 3)]) fun s =>
    let k := slotOf (argNat body 3)
    if (s.station k).state = .absent then s.adminEnd tag 0x06#8 .notFound 0 StationState.absent.code
    else if s.pollNames k then s.adminEnd tag 0x06#8 .inUse 0 (s.station k).state.code
    else if (s.station k).busy then
      (s.modStation k fun st => { st with pending := .remove }).setAdmin (.deferred tag (.removeStation k))
    else (s.applyRemove k).adminEnd tag 0x06#8 .done 0 StationState.absent.code

/-- READ STATION (R168): to WRITING; the record is read at the data writer's grant. -/
def State.runReadStation (s : State) (tag : Half) (body : AdminBody) : State :=
  s.withArguments tag 0x09#8 (argumentFault (reservedNonzero body (offsetsFrom 8))
      [outside 0 127 (argNat body 3), (argWord body 4).toNat % 32 != 0]) fun s =>
    s.setAdmin (.writing tag (.readStation (slotOf (argNat body 3)) (argWord body 4) none))

/-! ## Polls -/

/-- The id DEFINE POLL fills: the one named, or the lowest FREE one (R169). -/
def State.idToFill (s : State) (arg : Nat) : Option PollId :=
  if arg = anyFF then allPolls.find? fun id => (s.poll id).state == .free else some (pollOf arg)

/-- The station slot of DEFINE POLL is ABSENT or on another line, or its placement names an entry not in the line's list (R93, R169). -/
def State.pollPlaceMissing (s : State) (a : PollArguments) : Bool :=
  (s.station a.station).state == .absent || (s.station a.station).line != a.line ||
    (match a.before with
     | none => false
     | some b => !(s.line a.line).pollList.contains b)

/-- DEFINE POLL (R169): to WRITING, the entry being filled when the header write ends. -/
def State.runDefinePoll (s : State) (tag : Half) (body : AdminBody) : State :=
  s.withArguments tag 0x0A#8 (argumentFault (decide (16 ≤ argNat body 8)) (definePollChecks body)) fun s =>
    match s.idToFill (argNat body 3) with
    | none => s.adminEnd tag 0x0A#8 .noSpace 0 noStationCode
    | some id =>
      if (s.poll id).state ≠ .free then s.adminEnd tag 0x0A#8 .inUse 0 noStationCode
      else if s.pollPlaceMissing (definePollArguments body id) then s.adminEnd tag 0x0A#8 .notFound 0 noStationCode
      else s.setAdmin (.writing tag (.definePoll (definePollArguments body id)))

/-- An id is placed in a line list: at the end, or immediately before an entry (R91). -/
def placeInList (list : List PollId) (id : PollId) : Option PollId → List PollId
  | none => list ++ [id]
  | some b => list.takeWhile (· != b) ++ id :: list.dropWhile (· != b)

/-- The entry DEFINE POLL fills (R93). -/
def PollArguments.entry (a : PollArguments) : Poll :=
  { Poll.free with
    state := .idle, line := a.line, station := a.station, function := a.function, template := a.template
    slotAddress := a.slotAddress, capacity := a.capacity, divisor := a.divisor, phase := a.phase, mode := a.mode }

/-- The entry is filled and placed in its line's list (R91, R93). -/
def State.fillPoll (s : State) (a : PollArguments) : State :=
  (s.modPoll a.id fun _ => a.entry).modLine a.line fun l => { l with pollList := placeInList l.pollList a.id a.before }

/-- DELETE POLL (R170, R107). -/
def State.runDeletePoll (s : State) (tag : Half) (body : AdminBody) : State :=
  s.withArguments tag 0x0B#8 (argumentFault (reservedNonzero body (offsetsFrom 4)) [outside 0 95 (argNat body 3)]) fun s =>
    let id := pollOf (argNat body 3)
    match (s.poll id).state with
    | .free => s.adminEnd tag 0x0B#8 .notFound 0 noStationCode
    | .idle | .due => (s.freePoll id).adminDone tag 0x0B#8
    | .inFlight | .deleting =>
      (s.modPoll id fun p => { p with state := .deleting, dueAgain := false }).setAdmin (.deferred tag (.deletePoll id))

/-! ## The rest -/

/-- READ LINE (R171): to WRITING; the record is read at the data writer's grant. -/
def State.runReadLine (s : State) (tag : Half) (body : AdminBody) : State :=
  s.withArguments tag 0x0C#8 (argumentFault (reservedNonzero body (offsetsFrom 8))
      [outside 0 3 (argNat body 3), (argWord body 4).toNat % 32 != 0]) fun s =>
    s.setAdmin (.writing tag (.readLine (lineOf (argNat body 3)) (argWord body 4) none))

/-- SET CAPTURE (R172, R135): reconfiguration pending is set; the command applies at once when its condition holds. -/
def State.runSetCapture (s : State) (tag : Half) (body : AdminBody) : State :=
  s.withArguments tag 0x0D#8 (argumentFault (reservedNonzero body ([6, 7] ++ offsetsFrom 20)) (setCaptureChecks body)) fun s =>
    ((s.modCapture fun c => { c with reconfig := true }).setAdmin
      (.deferred tag (.setCapture (setCaptureConfig body)))).deferredApply

/-- RESTART RING (R173, R141). -/
def State.runRestartRing (s : State) (tag : Half) (body : AdminBody) : State :=
  s.withArguments tag 0x0E#8 (argumentFault (reservedNonzero body (offsetsFrom 6)) [outside 1 4 (argNat body 3)]) fun s =>
    let n := lineOf (argNat body 3 - 1)
    if (s.line n).engine = .off then
      ((s.modRing (ringOfLine n) fun g =>
        { g with consumer := argHalf body 4, accepted := argHalf body 4, state := .active }).markShadow).adminDone tag 0x0E#8
    else s.adminEnd tag 0x0E#8 .wrongState 0 noStationCode

/-- A record with an unknown code (R156 step 1). -/
def State.runBadCommand (s : State) (tag : Half) (code : Byte) : State := s.adminEnd tag code .badCommand 0 noStationCode

/-- A command code is one of 01h..0Eh (R156 step 1). -/
def knownCode (code : Byte) : Bool := !outside 1 14 code.toNat

/-- The record handed over is treated by its code (R156). -/
def State.runAdmin (s : State) (tag : Half) (code : Byte) (body : AdminBody) : State :=
  match code.toNat with
  | 1 => s.runConfigureLine tag body
  | 2 => s.runStartLine tag body
  | 3 => s.runStopLine tag body
  | 4 => s.runDefineStation tag body
  | 5 => s.runModifyStation tag body
  | 6 => s.runRemoveStation tag body
  | 7 => s.runHoldStation tag body
  | 8 => s.runReleaseStation tag body
  | 9 => s.runReadStation tag body
  | 10 => s.runDefinePoll tag body
  | 11 => s.runDeletePoll tag body
  | 12 => s.runReadLine tag body
  | 13 => s.runSetCapture tag body
  | 14 => s.runRestartRing tag body
  | _ => s.runBadCommand tag code

/-! ## The take and the end of a data write -/

/-- The take of an admin record (R148): the consumer index rises, the shadow area is marked, the command is run. -/
def State.adminTake (s : State) (run : State → State) : State :=
  run ((s.modRing 0 fun g => { g with consumer := g.consumer + 1 }).markShadow)

/-- An admin record may be taken as its fetch ends (R143, R147, R148). -/
def State.adminMayTake (s : State) : Bool :=
  s.hbi.device == .running && s.admin == .idle && !s.ringUnit.fetchVoid

/-- The burst in progress is held by the given requester. -/
def State.burstOf (s : State) (r : Requester) : Bool := s.hbi.burst.any fun b => b.owner == r

/-- The burst in progress ends. -/
def State.clearBurst (s : State) : State := s.modHbi fun h => { h with burst := none }

/-- A burst of a requester ends: its outcome acts unless a reset waits for it, whose step 1 discards it (R181). No burst of that
requester: nothing ends (log entry 1). -/
def State.burstEnd (s : State) (r : Requester) (act : State → State) : State :=
  if s.burstOf r then (if s.hbi.resetting.isSome then s.clearBurst else act s.clearBurst) else s

/-- The end without error of the fetch of an admin record, seen as the command the record holds (log entry 8). -/
def State.adminRow (s : State) (run : State → State) : State :=
  s.burstEnd (.ringFetch 0) fun t =>
    if t.hbi.device = .faulted then t else (if t.adminMayTake then t.adminTake run else t).askFetch

/-- The causes and the break flag a line record showed are cleared (R171), also one recorded again between the bus grant and the burst's
end (DESIGN CHOICE, log entry 35). -/
def Line.clearShown (l : Line) (shown : LineShown) : Line :=
  { l with
    eventJam := l.eventJam && !shown.jam
    eventBreak := l.eventBreak && !shown.breakCause
    eventOverrun := l.eventOverrun && !shown.overrun
    breakFlag := l.breakFlag && !shown.breakFlag }

/-- The bytes a data write carries (R157). -/
def AdminWrite.bytes : AdminWrite → Nat
  | .readStation .. | .readLine .. => 32
  | .definePoll .. => 16

/-- The command code of a data write. -/
def AdminWrite.code : AdminWrite → Byte
  | .readStation .. => 0x09#8
  | .readLine .. => 0x0C#8
  | .definePoll .. => 0x0A#8

/-- The station state its completion carries (R157, R168). -/
def AdminWrite.stationState : AdminWrite → BitVec 3
  | .readStation _ _ shown => (shown.getD .absent).code
  | .readLine .. | .definePoll .. => noStationCode

/-- What a data write that ended without error does (R168, R169, R171). -/
def AdminWrite.complete (w : AdminWrite) (s : State) : State :=
  match w with
  | .readStation .. => s
  | .readLine n _ shown =>
    match shown with
    | some x => s.modLine n fun l => l.clearShown x
    | none => s
  | .definePoll a => s.fillPoll a

/-- The detail of its DONE (R157): the id filled by DEFINE POLL. -/
def AdminWrite.detail : AdminWrite → Byte
  | .definePoll a => byteOf a.id.val
  | .readStation .. | .readLine .. => 0

/-- The admin data writer's burst has ended (R157, R168, R169, R171); in FAULTED no completion is written (R159). -/
def State.adminWritten (s : State) (error : Bool) : State :=
  if s.hbi.device = .faulted then s.setAdmin .idle
  else
    match s.admin with
    | .writing tag w =>
      if error then s.adminClaim (adminCompletion tag w.code .adminBusError 0 0 w.bytes w.stationState)
      else (w.complete s).adminClaim (adminCompletion tag w.code .done w.detail w.bytes 0 w.stationState)
    | .idle | .deferred .. | .claiming _ => s

end Sys2Proof.Machine
end

