-- ==== Sys2Proof/Machine/Bus.lean ====
section
/-! DEFINITION. The bus-master arbiter, the bursts of its ten requesters and what the end of each does (R34, R57 to R62, R102 to R104, R130,
R133, R137, R138, R142, R143, R146 to R148, R152, R181, R185, R186). -/

namespace Sys2Proof.Machine

/-! ## What each requester asks for -/

/-- The bytes from an address up to the next 64-byte-aligned boundary (R185). -/
def roomAt (address : Word) : Nat := Config.burstBytes - address.toNat % Config.burstBytes

/-- A write burst from an address: the bytes that fit before the boundary. -/
def writeBurst (owner : Requester) (address : Word) (bytes : List Byte) : Burst :=
  let data := bytes.take (roomAt address)
  { owner := owner, address := address, length := data.length, data := some data }

/-- A read burst of up to a number of bytes. -/
def readBurst (owner : Requester) (address : Word) (remaining : Nat) : Burst :=
  { owner := owner, address := address, length := min remaining (roomAt address), data := none }

/-- The address of the record an index names, for records of the given size (R137, R139). -/
def recordAddress (base : Word) (size recordBytes : Nat) (index : Half) : Word :=
  base + BitVec.ofNat 32 (index.toNat % size * recordBytes)

/-- The fetch of a ring's next record: one 32-byte burst (R143). -/
def State.fetchBurst (s : State) (r : RingId) : Burst where
  owner := .ringFetch r
  address := recordAddress (s.ring r).base (s.ring r).size 32 (s.ring r).consumer
  length := 32
  data := none

/-- The shadow writer's next burst (R142): the rest of a copy that crosses a boundary, or a new copy while the area is marked. -/
def State.shadowBurst (s : State) : Option Burst :=
  let u := s.ringUnit
  match u.shadowRest with
  | some rest => some (writeBurst .shadowWriter (u.shadowAddress + BitVec.ofNat 32 (32 - rest.length)) rest)
  | none => if u.shadowMarked then some (writeBurst .shadowWriter u.shadowAddress u.shadowArea) else none

/-- The completion ring has room for a record (R152). -/
def CompletionWriter.ringRoom (w : CompletionWriter) : Bool := decide ((w.producer - w.released).toNat < w.size)

/-- The completion writer's next burst: the head of the holding queue to the slot of the producer index (R152). -/
def State.completionBurst (s : State) : Option Burst :=
  let w := s.writer
  match w.holding with
  | c :: _ =>
    if w.ringRoom then
      some { owner := .completionWriter, address := recordAddress w.base w.size 16 w.producer, length := 16,
             data := some (c.bytes w.phase) }
    else none
  | [] => none

/-- The poll entry whose slot the line's exchange delivers. -/
def Line.pollId (l : Line) : PollId :=
  match l.exchange with
  | some x =>
    match x.origin with
    | .poll id => id
    | .request _ | .followUp _ => 0
  | none => 0

/-- The stamp of a slot delivery: the line's cycle number when write 1 begins (R102). -/
def State.slotStamp (s : State) (n : LineId) (write : SlotWrite) (stamp : Word) : Word :=
  match write with
  | .oddGeneration => (s.line n).counters.cycle
  | .data | .header | .evenGeneration => stamp

/-- The burst of a slot write (R102). -/
def State.slotBurst (s : State) (n : LineId) (write : SlotWrite) (status : Status) (data : List Byte) (done : Nat) (stamp : Word) :
    Burst :=
  let p := s.poll (s.line n).pollId
  match write with
  | .oddGeneration | .evenGeneration => writeBurst (.dataMover n) p.slotAddress (le32 p.generation)
  | .data => writeBurst (.dataMover n) (p.slotAddress + BitVec.ofNat 32 (16 + done)) (data.drop done)
  | .header => writeBurst (.dataMover n) (p.slotAddress + 4#32) (slotHeaderRest status.code data.length p.skipped stamp)

/-- The next burst of line n's data mover (R34, R61): none while no DELIVER runs or a cut waits to take effect (R41). -/
def State.moverBurst (s : State) (n : LineId) : Option Burst :=
  let l := s.line n
  if l.engine = .deliver then
    match l.job with
    | some (.payloadRead address remaining _) =>
      if l.cutting then none else some (readBurst (.dataMover n) address remaining)
    | some (.responseWrite address bytes _) => if l.cutting then none else some (writeBurst (.dataMover n) address bytes)
    | some (.slotWrite write status data done stamp) => some (s.slotBurst n write status data done stamp)
    | none => none
  else none

/-- The capture writer's next burst: the next part of the record at the head of the write queue (R130). -/
def State.captureBurst (s : State) : Option Burst :=
  match s.capture.writeQueue, s.capture.config with
  | p :: _, some g =>
    let part := p.nextBurst g.base
    some (writeBurst .captureWriter (g.base + BitVec.ofNat 32 part.1) part.2)
  | _, _ => none

/-- The state of line n's request ring is FAULTED (R171). -/
def State.ringFaulted (s : State) (n : LineId) : Bool := (s.ring (ringOfLine n)).state == .faulted

/-- The admin data writer's burst, with the contents read at the grant (R157, R168, R169, R171). -/
def State.adminBurst (s : State) : Option Burst :=
  match s.admin with
  | .writing _ (.readStation k address _) => some (writeBurst .adminWriter address (s.station k).record)
  | .writing _ (.readLine n address _) => some (writeBurst .adminWriter address ((s.line n).record (s.ringFaulted n)))
  | .writing _ (.definePoll a) => some (writeBurst .adminWriter a.slotAddress freshSlotHeader)
  | .idle | .deferred .. | .claiming _ => none

/-- The device's states in which the finishing writers ask for the bus (R142, R152, R154). -/
def State.whenWorking (s : State) (b : Option Burst) : Option Burst := if s.hbi.device.working then b else none

/-- The context burst (R137). -/
def State.contextBurst (s : State) : Option Burst :=
  if s.hbi.device = .loading then
    some { owner := .contextLoader, address := s.hbi.contextAddress, length := 64, data := none }
  else none

/-- What the requester at a place of the round-robin order asks for (R185). -/
def State.request (s : State) (k : Fin 10) : Option Burst :=
  match k with
  | 0 => s.contextBurst
  | 1 => s.ringToFetch.map s.fetchBurst
  | 2 => s.whenWorking s.shadowBurst
  | 3 => s.whenWorking s.completionBurst
  | 4 => s.moverBurst 0
  | 5 => s.moverBurst 1
  | 6 => s.moverBurst 2
  | 7 => s.moverBurst 3
  | 8 => s.whenWorking s.captureBurst
  | 9 => s.adminBurst

/-! ## The grant -/

/-- What an admin data write read at its grant (R168, R171). -/
def State.readAtGrant (s : State) (w : AdminWrite) : AdminWrite :=
  match w with
  | .readStation k address _ => .readStation k address (some (s.station k).state)
  | .readLine n address _ =>
    let l := s.line n
    .readLine n address
      (some { jam := l.eventJam, breakCause := l.eventBreak, overrun := l.eventOverrun, breakFlag := l.breakFlag })
  | .definePoll a => .definePoll a

/-- The grant fixes the stamp of a slot delivery whose write 1 begins (R102). -/
def State.stampGrant (s : State) (n : LineId) : State :=
  match (s.line n).job with
  | some (.slotWrite write status data done stamp) =>
    s.modLine n fun l => { l with job := some (.slotWrite write status data done (s.slotStamp n write stamp)) }
  | some (.payloadRead ..) | some (.responseWrite ..) | none => s

/-- The shadow writer's grant: a new copy clears the mark, and what does not fit the burst is kept for a second one (R142). -/
def RingUnit.shadowGrant (u : RingUnit) : RingUnit :=
  match u.shadowRest with
  | some rest =>
    let left := rest.drop (roomAt (u.shadowAddress + BitVec.ofNat 32 (32 - rest.length)))
    { u with shadowRest := if left.isEmpty then none else some left }
  | none =>
    let left := u.shadowArea.drop (roomAt u.shadowAddress)
    { u with shadowMarked := false, shadowRest := if left.isEmpty then none else some left }

/-- What the grant changes at its requester. -/
def State.atGrant (s : State) (owner : Requester) : State :=
  match owner with
  | .contextLoader | .completionWriter | .captureWriter => s
  | .ringFetch r => s.modRingUnit fun u => { u with fetchNext := r + 1, requested := none, fetchVoid := false }
  | .shadowWriter => s.modRingUnit RingUnit.shadowGrant
  | .dataMover n => s.stampGrant n
  | .adminWriter =>
    match s.admin with
    | .writing tag w => s.setAdmin (.writing tag (s.readAtGrant w))
    | .idle | .deferred .. | .claiming _ => s

/-- The requesters in round-robin order from the pointer (R185). -/
def busOrder (pointer : Fin 10) : List (Fin 10) := [0, 1, 2, 3, 4, 5, 6, 7, 8, 9].map (pointer + ·)

/-- The first waiting requester and its burst (R185). -/
def State.nextGrant (s : State) : Option (Fin 10 × Burst) :=
  (busOrder s.hbi.busPointer).findSome? fun k => (s.request k).map fun b => (k, b)

/-- The bus is free to be granted: no burst in progress, no reset in its step 1 (R181), the device not FAULTED (R187). -/
def State.busFree (s : State) : Bool := s.hbi.burst.isNone && s.hbi.resetting.isNone && s.hbi.device != .faulted

/-- The arbiter grants the free bus to the first waiting requester, and its pointer moves past it (R185). -/
def State.grantBus (s : State) : State :=
  if s.busFree then
    match s.nextGrant with
    | some (k, b) => (s.atGrant b.owner).modHbi fun h => { h with burst := some b, busPointer := k + 1 }
    | none => s
  else s

/-! ## The context load -/

/-- Rings 0..4 as a valid context block gives them: ACTIVE, both indices 0 (R138). -/
def loadedRings (data : Vector Byte 64) : Vector Ring 5 :=
  Vector.ofFn fun r =>
    { base := contextBase data r.val, size := 2 ^ contextLog2Size data r.val, state := .active, consumer := 0, accepted := 0 }

/-- A valid context block is loaded (R138, R178): the rings, the completion ring, the shadow mark; RUNNING, or HALTED when ENABLE was
cleared during the load. -/
def State.loadContext (s : State) (data : Vector Byte 64) : State :=
  let t := (s.modRingUnit fun u =>
      { u with rings := loadedRings data, shadowAddress := contextShadow data, shadowMarked := true }).modWriter fun w =>
    { w with
      base := contextBase data 5, size := 2 ^ contextLog2Size data 5, producer := 0, released := 0, phase := true
      holding := [], pointer := 0 }
  if s.hbi.enable then t.modHbi fun h => { h with device := .running }
  else (t.modHbi fun h => { h with device := .halted }).latch .halted

/-- The context burst ends in LOADING (R137, R186). -/
def State.contextLoaded (s : State) (error : Bool) (data : Vector Byte 64) : State :=
  if s.hbi.device = .loading then
    if error then s.enterFaulted .contextBusError
    else if contextValid s.hbi.contextAddress data then s.loadContext data
    else s.enterFaulted .contextInvalid
  else s

/-! ## Record fetches -/

/-- The record of a request ring may be taken (R147, R143): RUNNING, the line running, the fetch not voided. -/
def State.requestMayTake (s : State) (n : LineId) : Bool :=
  s.hbi.device == .running && (s.line n).running && !s.ringUnit.fetchVoid &&
    decide ((s.line n).prefetched.length < Config.prefetchDepth)

/-- The completion of a MALFORMED record (R146). -/
def State.malformedCompletion (s : State) (n : LineId) (r : Request) (check : Nat) : Completion where
  tag := r.tag
  status := .malformed
  detail := byteOf check
  kind := .request
  stationState := noStationCode
  origin := byteOf n.val
  attempts := 0
  segments := 0
  delivered := 0
  residue := 0
  stamp := s.stampNow n

/-- A valid record is taken: it joins the prefetch queue, the consumer index rises, the shadow area is marked, and the arbiter makes a
choice (R113, R146). -/
def State.takeValid (s : State) (n : LineId) (r : Request) : State :=
  (((s.modLine n fun l => { l with prefetched := l.prefetched ++ [r] }).modRing (ringOfLine n) fun g =>
    { g with consumer := g.consumer + 1 }).markShadow).arbiterChoice n

/-- A MALFORMED record is claimed for as the Ring Unit; the take is made at the grant (R146). -/
def State.claimMalformed (s : State) (n : LineId) (c : Completion) : State :=
  if s.hasRoom && s.hbi.device != .faulted then s.takeMalformed n c
  else s.modRingUnit fun u => { u with claim := some (n, c) }

/-- The record of line n's request ring at the end of its fetch (R145, R146). -/
def State.takeRequest (s : State) (n : LineId) (data : Vector Byte 32) : State :=
  match malformedCheck data with
  | none => s.takeValid n (decodeRequest data)
  | some check => s.claimMalformed n (s.malformedCompletion n (decodeRequest data) check)

/-- A record fetch from ring r ends (R146 to R148, R186). -/
def State.fetched (s : State) (r : RingId) (error : Bool) (data : Vector Byte 32) : State :=
  if s.hbi.device = .faulted then s
  else
    (if error then s.faultRing r .fetchError
     else if h : r = 0 then
       if s.adminMayTake then s.adminTake fun t => t.runAdmin (adminTag data) (adminCode data) (adminBody data) else s
     else
       let n := r.pred h
       if s.requestMayTake n then s.takeRequest n data else s).askFetch

/-- The end of a record fetch burst, of whichever ring. -/
def State.fetchEnd (s : State) (error : Bool) (data : Vector Byte 32) : State :=
  match s.hbi.burst with
  | some b =>
    match b.owner with
    | .ringFetch r => s.burstEnd (.ringFetch r) fun t => t.fetched r error data
    | _ => s
  | none => s

/-! ## Shadow and completion writes -/

/-- A shadow burst ends: a bus error is serious (R142, R186). -/
def State.shadowWritten (s : State) (error : Bool) : State := if error then s.enterFaulted .shadowBusError else s

/-- The producer index rises by 1, and the phase flips at each pass over the ring (R152 steps 2 and 3). -/
def CompletionWriter.advance (w : CompletionWriter) : CompletionWriter :=
  let next := w.producer + 1
  { w with producer := next, phase := if next.toNat % w.size = 0 then !w.phase else w.phase }

/-- A completion record has been written (R152): the four steps in order. -/
def State.completionDone (s : State) : State :=
  ((((s.modWriter fun w => { w with holding := w.holding.drop 1 }).grantFreed).modWriter CompletionWriter.advance).countWritten).eventEnd

/-- A completion burst ends (R152, R186); in FAULTED it counts for nothing (R154). -/
def State.completionWritten (s : State) (error : Bool) : State :=
  if s.hbi.device = .faulted then s
  else if error then s.enterFaulted .completionBusError
  else s.completionDone

/-! ## Capture writes -/

/-- A capture burst of the given length has ended without error (R130). -/
def State.captureAdvance (s : State) (length : Nat) : State :=
  match s.capture.writeQueue, s.capture.config with
  | p :: rest, some g =>
    let q := p.advance length
    let t := s.modCapture fun c => { c with writeQueue := q :: rest }
    if q.finished then t.recordWritten q g else t
  | _, _ => s

/-- A capture burst ends (R130, R133); a SET CAPTURE that waits may apply (R135). -/
def State.captureWritten (s : State) (error : Bool) (length : Nat) : State :=
  if s.hbi.device = .faulted then s
  else ((if error then s.captureFault else s.captureAdvance length).deferredApply).eventEnd

/-! ## Data mover bursts -/

/-- A payload read burst has ended (R61, R62). -/
def State.payloadPart (s : State) (n : LineId) (error : Bool) (address : Word) (remaining : Nat) (bytes part : List Byte) : State :=
  if (s.line n).cutting then s.cutEnd n
  else if error then s.endExchange n .busError 0
  else
    let held := bytes ++ part
    if remaining ≤ part.length then
      match (s.line n).exchange with
      | some x => s.sendFrame n (s.requestFrame x held)
      | none => s
    else
      s.modLine n fun l =>
        { l with job := some (.payloadRead (address + BitVec.ofNat 32 part.length) (remaining - part.length) held) }

/-- A response write burst of the given length has ended (R57 to R63): delivered rises and the residue falls by its bytes. -/
def State.responsePart (s : State) (n : LineId) (error : Bool) (address : Word) (bytes : List Byte) (next : AfterWrite)
    (length : Nat) : State :=
  let t := if error then s else s.modExchange n fun x =>
    { x with delivered := x.delivered + length, residue := x.residue - length }
  if (s.line n).cutting then t.cutEnd n
  else if error then t.endExchange n .busError 0
  else if bytes.length ≤ length then t.afterWrite n next
  else
    t.modLine n fun l =>
      { l with job := some (.responseWrite (address + BitVec.ofNat 32 length) (bytes.drop length) next) }

/-- The slot writes go on to the next one of R102. -/
def State.slotNext (s : State) (n : LineId) (write : SlotWrite) (status : Status) (data : List Byte) (done : Nat) (stamp : Word) :
    State :=
  s.modLine n fun l => { l with job := some (.slotWrite write status data done stamp) }

/-- Step 2 of the POLL exchange end goes on to its report decision. -/
def State.slotReport (s : State) (n : LineId) (id : PollId) : State :=
  match (s.line n).exchange with
  | some x => s.pollReport n id x
  | none => s

/-- A slot write burst of the given length has ended (R102 to R104). -/
def State.slotPart (s : State) (n : LineId) (error : Bool) (write : SlotWrite) (status : Status) (data : List Byte) (done : Nat)
    (stamp : Word) (length : Nat) : State :=
  let id := (s.line n).pollId
  if error then (s.modPoll id fun p => { p with slotFault := true }).slotReport n id
  else
    match write with
    | .oddGeneration => s.slotNext n (if data.isEmpty then .header else .data) status data 0 stamp
    | .data =>
      if data.length ≤ done + length then s.slotNext n .header status data 0 stamp
      else s.slotNext n .data status data (done + length) stamp
    | .header =>
      (s.modPoll id fun p => { p with generation := p.generation + 1 }).slotNext n .evenGeneration status data 0 stamp
    | .evenGeneration => s.slotReport n id

/-- A burst of line n's data mover ends (R34, R43, R62, R104). -/
def State.moverDone (s : State) (n : LineId) (error : Bool) (data : Vector Byte 64) (length : Nat) : State :=
  if s.hbi.device = .faulted then s.faultEnd n
  else
    (match (s.line n).job with
     | some (.payloadRead address remaining bytes) =>
       s.payloadPart n error address remaining bytes (data.toList.take length)
     | some (.responseWrite address bytes next) => s.responsePart n error address bytes next length
     | some (.slotWrite write status d done stamp) => s.slotPart n error write status d done stamp length
     | none => s).eventEnd

/-- The length of the burst in progress. -/
def State.burstLength (s : State) : Nat :=
  match s.hbi.burst with
  | some b => b.length
  | none => 0

end Sys2Proof.Machine
end

