-- ==== Sys2Proof/Machine/HostPort.lean ====
section
/-! DEFINITION. The register writes and the resets (R132, R140, R153, R174, R175, R181 to R184, R200). -/

namespace Sys2Proof.Machine

/-! ## Resets -/

/-- Every block takes its reset values (R181). The level of each RXn is the outside's and stays (log entry 9); the commands that wait
and the counter of the free value are the model's own. -/
def State.takeReset (s : State) (cause : ResetCause) : State :=
  { State.reset with
    hbi := .reset cause
    lines := s.lines.map fun l => { Line.reset with rxHigh := l.rxHigh }
    free := s.free
    pending := s.pending }

/-- A reset starts (R181): with a burst in progress it waits in its step 1, and a reset already there is joined; otherwise the reset
values are taken at once. -/
def State.startReset (s : State) (cause : ResetCause) : State :=
  if s.hbi.resetting.isSome || s.hbi.burst.isSome then s.modHbi fun h => { h with resetting := some cause }
  else s.takeReset cause

/-! ## The registers -/

/-- ENABLE takes the value written and acts by the device state (R175). -/
def State.writeEnable (s : State) (v : Bool) : State :=
  if s.hbi.enable = v then s
  else
    let t := s.modHbi fun h => { h with enable := v }
    match s.hbi.device with
    | .unconfigured =>
      if v then
        if s.hbi.contextAddress.toNat % 64 = 0 then t.modHbi fun h => { h with device := .loading }
        else t.enterFaulted .contextInvalid
      else t
    | .running => if v then t else t.enterHalting
    | .halted => if v then t.returnToRunning else t
    | .loading | .halting | .faulted => t

/-- IRQ_ENABLE takes the value written (R175). -/
def State.writeIrqEnable (s : State) (v : Bool) : State := s.modHbi fun h => { h with irqEnable := v }

/-- A CONTROL write without RESET (R175). -/
def State.writeControl (s : State) (enable irq : Bool) : State := (s.writeIrqEnable irq).writeEnable enable

/-- A write of ATTENTION clears each cause written as one (R182); COMPLETION written as one also acknowledges the moderation (R184). -/
def State.acknowledge (s : State) (value : Word) : State :=
  let t := s.modHbi fun h => { h with attention := h.attention &&& ~~~value.setWidth 7 }
  if value.getLsbD 0 then t.modWriter CompletionWriter.acknowledge else t

/-- A write of ATTENTION MASK (R183). -/
def State.writeMask (s : State) (value : Word) : State := s.modHbi fun h => { h with mask := value.setWidth 7 }

/-- A write of CONTEXT ADDRESS: taken in UNCONFIGURED, ignored in other states (R174). -/
def State.writeContextAddress (s : State) (value : Word) : State :=
  if s.hbi.device = .unconfigured then s.modHbi fun h => { h with contextAddress := value } else s

/-- A write of MODERATION (R184, R200). -/
def State.writeModeration (s : State) (value : Word) : State :=
  s.modWriter fun w => { w with threshold := value.setWidth 8, holdoff := value.extractLsb' 16 16 }

/-- A producer index P is valid for a ring (R140): not behind the accepted one, and claiming no more records than the ring holds. -/
def Ring.producerValid (g : Ring) (p : Half) : Bool :=
  decide ((g.accepted - g.consumer).toNat ≤ (p - g.consumer).toNat) && decide ((p - g.consumer).toNat ≤ g.size)

/-- NOTIFY names ring r with producer index P (R140). -/
def State.notifyRing (s : State) (r : RingId) (p : Half) : State :=
  match (s.ring r).state with
  | .notLoaded | .faulted => s
  | .active =>
    (if (s.ring r).producerValid p then s.modRing r fun g => { g with accepted := p } else s.faultRing r .badProducer).askFetch

/-- The ring id of a NOTIFY write: bits 19..16 (R200). -/
def notifyId (value : Word) : BitVec 4 := value.extractLsb' 16 4

/-- A write of NOTIFY (R140). -/
def State.writeNotify (s : State) (value : Word) : State :=
  if s.hbi.device.working then
    if h : (notifyId value).toNat < 5 then s.notifyRing ⟨(notifyId value).toNat, h⟩ (value.extractLsb' 0 16)
    else s.ringFault .badNotify (notifyId value)
  else s

/-- A COMPLETION RELEASE index is valid (R153): neither behind the released index nor past the producer index. -/
def CompletionWriter.releaseValid (w : CompletionWriter) (v : Half) : Bool :=
  decide ((v - w.released).toNat ≤ (w.producer - w.released).toNat)

/-- A write of COMPLETION RELEASE (R153). -/
def State.writeCompletionRelease (s : State) (value : Word) : State :=
  let v : Half := value.extractLsb' 0 16
  if s.hbi.device.working then
    if s.writer.releaseValid v then s.modWriter fun w => { w with released := v } else s.ringFault .badRelease 5#4
  else s

/-- A write of CAPTURE RELEASE (R132, R200): bits 19..0; ignored in FAULTED (R187). -/
def State.writeCaptureRelease (s : State) (value : Word) : State :=
  if s.hbi.device = .faulted then s else s.captureReleaseTo (value.extractLsb' 0 20).toNat

/-- A write at a byte offset of the register window acts on the word that contains it (R174, R200). -/
def State.writeRegister (s : State) (offset : BitVec 6) (value : Word) : State :=
  match (wordOffset offset).toNat with
  | 0x04 => s.writeControl (value.getLsbD 0) (value.getLsbD 2)
  | 0x0C => s.acknowledge value
  | 0x10 => s.writeMask value
  | 0x14 => s.writeContextAddress value
  | 0x18 => s.writeNotify value
  | 0x1C => s.writeCompletionRelease value
  | 0x20 => s.writeCaptureRelease value
  | 0x28 => s.writeModeration value
  | _ => s

/-- The write is a CONTROL write with RESET one, which starts a function reset (R175). -/
def writesReset (offset : BitVec 6) (value : Word) : Bool := (wordOffset offset).toNat == 0x04 && value.getLsbD 1

/-- A held register write is served after the reset values are taken (R181). -/
def State.serve (s : State) (c : Instr) : State :=
  match c with
  | .enableSet irq => s.writeControl true irq
  | .enableClear irq => s.writeControl false irq
  | .irqEnable irq => s.writeIrqEnable irq
  | .attentionAcknowledge value => s.acknowledge value
  | .attentionMask value => s.writeMask value
  | .notify value => s.writeNotify value
  | .completionRelease value => s.writeCompletionRelease value
  | .captureRelease value => s.writeCaptureRelease value
  | .registerWrite offset value => s.writeRegister offset value
  | _ => s

/-- A register write: acted on at once, and during step 1 of a reset held (R174, R181). -/
def State.access (s : State) (c : Instr) (act : State → State) : State :=
  if s.hbi.resetting.isSome then s.modHbi fun h => { h with held := h.held ++ [c] } else act s

/-- Step 2 of a reset (R181): the reset values, then the held accesses in their order. -/
def State.finishReset (s : State) : State :=
  match s.hbi.resetting with
  | some cause => s.hbi.held.foldl State.serve (s.takeReset cause)
  | none => s

/-- What a read of the register window returns (R174). A read changes nothing, so it is no command. A read that arrives in step 1 of a
reset is held like a write and served after step 2, behind the writes held before it (R181): it returns what the window then holds
(log entry 11). -/
def State.readRegister (s : State) (offset : BitVec 6) : Word :=
  if s.hbi.resetting.isSome then s.finishReset.registerWord offset else s.registerWord offset

/-! ## The commands -/

/-- POWER_ON_RESET (R181). -/
def execPowerOnReset (s : State) : Host.Outcome State Fault Refusal := .next (s.startReset .powerOn)

/-- FUNCTION_RESET (R175, R181): the other bits of the write are discarded. -/
def execFunctionReset (_enableBit _irqBit : Bool) (s : State) : Host.Outcome State Fault Refusal :=
  .next (s.startReset .function)

/-- RESET_VALUES (R181). -/
def execResetValues (s : State) : Host.Outcome State Fault Refusal := .next s.finishReset

/-- ENABLE_SET (R175, R177, R180). -/
def execEnableSet (irq : Bool) (s : State) : Host.Outcome State Fault Refusal :=
  .next (s.access (.enableSet irq) fun t => t.writeControl true irq)

/-- ENABLE_CLEAR (R175, R179). -/
def execEnableClear (irq : Bool) (s : State) : Host.Outcome State Fault Refusal :=
  .next (s.access (.enableClear irq) fun t => t.writeControl false irq)

/-- IRQ_ENABLE (R175, R183). -/
def execIrqEnable (irq : Bool) (s : State) : Host.Outcome State Fault Refusal :=
  .next (s.access (.irqEnable irq) fun t => t.writeIrqEnable irq)

/-- ATTENTION_ACKNOWLEDGE (R182, R184). -/
def execAttentionAcknowledge (value : Word) (s : State) : Host.Outcome State Fault Refusal :=
  .next (s.access (.attentionAcknowledge value) fun t => t.acknowledge value)

/-- ATTENTION_MASK (R183). -/
def execAttentionMask (value : Word) (s : State) : Host.Outcome State Fault Refusal :=
  .next (s.access (.attentionMask value) fun t => t.writeMask value)

/-- NOTIFY (R140). -/
def execNotify (value : Word) (s : State) : Host.Outcome State Fault Refusal :=
  .next (s.access (.notify value) fun t => t.writeNotify value)

/-- COMPLETION_RELEASE (R153). -/
def execCompletionRelease (value : Word) (s : State) : Host.Outcome State Fault Refusal :=
  .next (s.access (.completionRelease value) fun t => t.writeCompletionRelease value)

/-- CAPTURE_RELEASE (R132). -/
def execCaptureRelease (value : Word) (s : State) : Host.Outcome State Fault Refusal :=
  .next (s.access (.captureRelease value) fun t => t.writeCaptureRelease value)

/-- REGISTER_WRITE (R174, R200): the register the offset names; a CONTROL write with RESET one joins or starts a reset (R175, R181). -/
def execRegisterWrite (offset : BitVec 6) (value : Word) (s : State) : Host.Outcome State Fault Refusal :=
  .next (if writesReset offset value then s.startReset .function
    else s.access (.registerWrite offset value) fun t => t.writeRegister offset value)

end Sys2Proof.Machine
end

