-- ==== Sys2Proof/Machine/BusPort.lean ====
section
/-! DEFINITION. The commands of the host bus, the holding queue and the device's own events: the grant, the burst ends, and the conditions
tested by the part itself (R130, R137, R142, R146, R151, R152, R157, R158, R180, R184, R185). -/

namespace Sys2Proof.Machine

/-- BUS_GRANT (R185). -/
def execBusGrant (s : State) : Host.Outcome State Fault Refusal := .next s.grantBus

/-- CONTEXT_LOAD_END (R137, R138, R178, R186). -/
def execContextLoadEnd (error : Bool) (data : Vector Byte 64) (s : State) : Host.Outcome State Fault Refusal :=
  .next (s.burstEnd .contextLoader fun t => t.contextLoaded error data)

/-- RECORD_FETCH_END (R146 to R148, R186). -/
def execRecordFetchEnd (error : Bool) (data : Vector Byte 32) (s : State) : Host.Outcome State Fault Refusal :=
  .next (s.fetchEnd error data)

/-- SHADOW_WRITE_END (R142, R186). -/
def execShadowWriteEnd (error : Bool) (s : State) : Host.Outcome State Fault Refusal :=
  .next (s.burstEnd .shadowWriter fun t => t.shadowWritten error)

/-- COMPLETION_WRITE_END (R152, R186). -/
def execCompletionWriteEnd (error : Bool) (s : State) : Host.Outcome State Fault Refusal :=
  .next (s.burstEnd .completionWriter fun t => t.completionWritten error)

/-- CLAIM_GRANT (R151): a free holding-queue entry goes to the first waiting claimant. -/
def execClaimGrant (s : State) : Host.Outcome State Fault Refusal := .next s.grantOne.eventEnd

/-- MODERATION_HOLDOFF_EXPIRY (R184): COMPLETION is latched and the timer stops. -/
def execModerationHoldoffExpiry (s : State) : Host.Outcome State Fault Refusal :=
  .next (if s.writer.holdoffTimer.isSome then (s.modWriter fun w => { w with holdoffTimer := none }).latch .completion else s)

/-- CAPTURE_WRITE_END (R130, R133, R186). -/
def execCaptureWriteEnd (error : Bool) (s : State) : Host.Outcome State Fault Refusal :=
  .next (s.burstEnd .captureWriter fun t => t.captureWritten error s.burstLength)

/-- DATA_MOVER_BURST_END (R34, R62, R104). -/
def execDataMoverBurstEnd (n : LineId) (error : Bool) (data : Vector Byte 64) (s : State) : Host.Outcome State Fault Refusal :=
  .next (s.burstEnd (.dataMover n) fun t => t.moverDone n error data s.burstLength)

/-- ADMIN_DATA_WRITE_END (R157, R168, R169, R171). -/
def execAdminDataWriteEnd (error : Bool) (s : State) : Host.Outcome State Fault Refusal :=
  .next (s.burstEnd .adminWriter fun t => (t.adminWritten error).eventEnd)

/-- DEFERRED_COMMAND_APPLY (R158). -/
def execDeferredCommandApply (s : State) : Host.Outcome State Fault Refusal := .next s.deferredApply.eventEnd

/-- HALT_CONDITION (R180). -/
def execHaltCondition (s : State) : Host.Outcome State Fault Refusal := .next s.haltTest

end Sys2Proof.Machine
end

