-- ==== Sys2Proof/Machine/AdminPort.lean ====
section
/-! DEFINITION. The admin commands: each row is the take of a record of its code at the end of the admin ring's fetch (R148, R156). -/

namespace Sys2Proof.Machine

/-- CONFIGURE_LINE (R160). -/
def execConfigureLine (tag : Half) (body : AdminBody) (s : State) : Host.Outcome State Fault Refusal :=
  .next (s.adminRow fun t => t.runConfigureLine tag body)

/-- START_LINE (R161). -/
def execStartLine (tag : Half) (body : AdminBody) (s : State) : Host.Outcome State Fault Refusal :=
  .next (s.adminRow fun t => t.runStartLine tag body)

/-- STOP_LINE (R162). -/
def execStopLine (tag : Half) (body : AdminBody) (s : State) : Host.Outcome State Fault Refusal :=
  .next (s.adminRow fun t => t.runStopLine tag body)

/-- DEFINE_STATION (R163). -/
def execDefineStation (tag : Half) (body : AdminBody) (s : State) : Host.Outcome State Fault Refusal :=
  .next (s.adminRow fun t => t.runDefineStation tag body)

/-- MODIFY_STATION (R164). -/
def execModifyStation (tag : Half) (body : AdminBody) (s : State) : Host.Outcome State Fault Refusal :=
  .next (s.adminRow fun t => t.runModifyStation tag body)

/-- REMOVE_STATION (R167). -/
def execRemoveStation (tag : Half) (body : AdminBody) (s : State) : Host.Outcome State Fault Refusal :=
  .next (s.adminRow fun t => t.runRemoveStation tag body)

/-- HOLD_STATION (R165). -/
def execHoldStation (tag : Half) (body : AdminBody) (s : State) : Host.Outcome State Fault Refusal :=
  .next (s.adminRow fun t => t.runHoldStation tag body)

/-- RELEASE_STATION (R166). -/
def execReleaseStation (tag : Half) (body : AdminBody) (s : State) : Host.Outcome State Fault Refusal :=
  .next (s.adminRow fun t => t.runReleaseStation tag body)

/-- READ_STATION (R168). -/
def execReadStation (tag : Half) (body : AdminBody) (s : State) : Host.Outcome State Fault Refusal :=
  .next (s.adminRow fun t => t.runReadStation tag body)

/-- DEFINE_POLL (R169). -/
def execDefinePoll (tag : Half) (body : AdminBody) (s : State) : Host.Outcome State Fault Refusal :=
  .next (s.adminRow fun t => t.runDefinePoll tag body)

/-- DELETE_POLL (R170). -/
def execDeletePoll (tag : Half) (body : AdminBody) (s : State) : Host.Outcome State Fault Refusal :=
  .next (s.adminRow fun t => t.runDeletePoll tag body)

/-- READ_LINE (R171). -/
def execReadLine (tag : Half) (body : AdminBody) (s : State) : Host.Outcome State Fault Refusal :=
  .next (s.adminRow fun t => t.runReadLine tag body)

/-- SET_CAPTURE (R172). -/
def execSetCapture (tag : Half) (body : AdminBody) (s : State) : Host.Outcome State Fault Refusal :=
  .next (s.adminRow fun t => t.runSetCapture tag body)

/-- RESTART_RING (R173). -/
def execRestartRing (tag : Half) (body : AdminBody) (s : State) : Host.Outcome State Fault Refusal :=
  .next (s.adminRow fun t => t.runRestartRing tag body)

/-- BAD_COMMAND (R156 step 1); the row is of the unknown codes alone (log entry 1). -/
def execBadCommand (tag : Half) (code : Byte) (_body : AdminBody) (s : State) : Host.Outcome State Fault Refusal :=
  .next (if knownCode code then s else s.adminRow fun t => t.runBadCommand tag code)

end Sys2Proof.Machine
end

