-- ==== Sys2Proof/Machine/Receiver.lean ====
section
/-! DEFINITION. What the events of a line's receiver and timers do (R3, R4, R12, R22 to R33, R36). -/

namespace Sys2Proof.Machine

/-- A stray character is counted (R38). -/
def Line.countStray (l : Line) : Line :=
  { l with counters := { l.counters with strayCharacters := satSucc Config.counterMax l.counters.strayCharacters } }

/-- A noise character is counted (R29, R38). -/
def Line.countNoise (l : Line) : Line :=
  { l with counters := { l.counters with noiseCharacters := satSucc Config.counterMax l.counters.noiseCharacters } }

/-- A stray frame with a correct check is counted (R22, R38). -/
def Line.countStrayFrame (l : Line) : Line :=
  { l with counters := { l.counters with strayFrames := satSucc Config.counterMax l.counters.strayFrames } }

/-- The gap before the next character is measured anew (R12). -/
def Line.restartGap (l : Line) : Line := { l with timers := { l.timers with gap := some l.config.interCharacterLimit } }

/-- The stray frame candidate is dropped (R22). -/
def Line.dropCandidate (l : Line) : Line := { l with candidate := [], timers := { l.timers with gap := none } }

/-- A character handed over in IDLE at the stray frame candidate (R22). -/
def Line.candidateStep (l : Line) (value : Byte) (good : Bool) : Line :=
  match l.candidate with
  | [] => if good && value == Config.sof then { l with candidate := [value] }.restartGap else l
  | c :: cs =>
    let frame := c :: cs ++ [value]
    if !good then l.dropCandidate
    else if decide (frame.length = 5) && decide (64 < value.toNat) then l.dropCandidate
    else if frameComplete frame then (if checkCorrect frame then l.countStrayFrame else l).dropCandidate
    else { l with candidate := frame }.restartGap

/-- The receiver's phase after a hand-over (R3, R4): after a stop bit that was high it waits for a falling edge; after a framing error a
break may follow when the line has been held low since the character's start-bit edge, and a line that was high in between gives none. -/
def Line.afterHandOver (stopBit : Bool) (l : Line) : Line :=
  { l with rxPhase := if stopBit then .waitEdge else if l.lowSinceEdge then .lowAfterCharacter else .waitHigh }

/-- A character handed over in SEND (R27): with echo check on it is compared with the character that awaits its echo; after a mismatch
it is discarded. -/
def Line.echoStep (l : Line) (value : Byte) (good : Bool) : Line :=
  if !l.config.echoCheck || l.mismatch then l
  else if good && l.echoPending == some value then { l with echoPending := none }
  else l.echoMismatch

/-- A character handed over in AWAIT (R29, R30): an SOF begins the frame; another is noise, and a held expiry then takes effect. -/
def State.awaitCharacter (s : State) (n : LineId) (value : Byte) (good : Bool) : State :=
  if good && value == Config.sof then
    s.modLine n fun l => { l with engine := .receive, received := [value] }.restartGap
  else
    let t := s.modLine n Line.countNoise
    match (s.line n).timers.response with
    | .expired => t.failAttempt n .timeout
    | .running _ | .stopped => t

/-- A character handed over in RECEIVE (R12, R31). -/
def State.receiveCharacter (s : State) (n : LineId) (value : Byte) (good : Bool) : State :=
  let l := s.line n
  let frame := l.received ++ [value]
  let fault := !good ||
    (decide (frame.length = 3) && badControl value (l.frame.any fun f => f.sync)) ||
    (decide (frame.length = 5) && badLength (frameByte frame 2) value)
  if fault then s.failAttempt n .frameError
  else
    let t := s.modLine n fun l => { l with received := frame }.restartGap
    if frameComplete frame then t.judgeFrame n else t

/-- A received character at the engine, by its state (R19). -/
def State.takeCharacter (s : State) (n : LineId) (value : Byte) (good : Bool) : State :=
  match (s.line n).engine with
  | .off | .lead | .trail => s
  | .idle => s.modLine n fun l => l.countStray.candidateStep value good
  | .quiet | .backoff | .deliver | .completeWait => s.modLine n Line.countStray
  | .send => s.modLine n fun l => l.echoStep value good
  | .await => s.awaitCharacter n value good
  | .receive => s.receiveCharacter n value good

/-- A character handed over carries neither mark (R3): its parity bit satisfies the rule of R1, and its stop bit was high. -/
def LineConfig.unmarked (c : LineConfig) (value : Byte) (parityBit stopBit : Bool) : Bool :=
  !parityFails c.parity value parityBit && stopBit

/-- The receiver hands over the character it has sampled, with its marks (R3). It does so while a character is in progress, and the stop
bit's sample, taken at the hand-over, is the level of RXn; otherwise there is no such hand-over (log entries 1 and 30). -/
def State.handCharacter (s : State) (n : LineId) (bits : Vector Bool 8) (parityBit stopBit : Bool) : State :=
  let l := s.line n
  let value := receivedByte bits
  if l.rxPhase = .inCharacter ∧ l.rxHigh = stopBit then
    (s.modLine n (Line.afterHandOver stopBit)).takeCharacter n value (l.config.unmarked value parityBit stopBit)
  else s

/-- The receiver reports a break (R4, R36); in RECEIVE it is an early fault (R12), in IDLE it drops a candidate (R22). -/
def State.breakReport (s : State) (n : LineId) : State :=
  if (s.line n).rxPhase = .lowAfterCharacter then
    let t := (s.modLine n fun l =>
      { l with
        rxPhase := .breakHeld, breakFlag := true
        counters := { l.counters with breaks := satSucc Config.counterMax l.counters.breaks } }).lineEvent n .break
    match (s.line n).engine with
    | .receive => t.failAttempt n .frameError
    | .idle => t.modLine n Line.dropCandidate
    | _ => t
  else s

/-- The inter-character limit elapses without a start-bit edge (R12, R22). -/
def State.gapExpiry (s : State) (n : LineId) : State :=
  let l := s.line n
  if l.timers.gap.isSome && l.rxPhase != .inCharacter then
    match l.engine with
    | .receive => s.failAttempt n .frameError
    | _ => s.modLine n Line.dropCandidate
  else s

/-- The quiet timer expires (R23). -/
def State.quietExpiry (s : State) (n : LineId) : State :=
  if (s.line n).engine = .quiet ∧ (s.line n).timers.quiet.isSome then s.toLead n else s

/-- The jam limit expires (R24). -/
def State.jamExpiry (s : State) (n : LineId) : State :=
  if (s.line n).engine = .quiet ∧ (s.line n).timers.jam.isSome then
    ((s.modLine n fun l =>
      { l with
        counters := { l.counters with
          jams := satSucc Config.counterMax l.counters.jams
          contentions := satSucc Config.counterMax l.counters.contentions } }).lineEvent n .jam).failAttempt n .contention
  else s

/-- The lead timer expires (R25). -/
def State.leadExpiry (s : State) (n : LineId) : State :=
  if (s.line n).engine = .lead ∧ (s.line n).timers.lead.isSome then s.modLine n Line.enterSend else s

/-- The last stop bit of the character in transmission ends (R26). -/
def State.sentEvent (s : State) (n : LineId) : State :=
  if (s.line n).engine = .send ∧ (s.line n).txCharacter.isSome then s.characterEnd n else s

/-- The trail timer expires (R28). -/
def State.trailExpiry (s : State) (n : LineId) : State :=
  if (s.line n).engine = .trail ∧ (s.line n).timers.trail.isSome then s.trailEnd n else s

/-- The response timer is marked expired: held in AWAIT, noted in RECEIVE (R30, R32). -/
def Line.noteExpiry (l : Line) : Line := { l with timers := { l.timers with response := .expired } }

/-- The response timer expires (R29, R30, R32). -/
def State.responseExpiry (s : State) (n : LineId) : State :=
  let l := s.line n
  match l.timers.response, l.engine with
  | .running _, .await =>
    if l.rxPhase = .inCharacter then s.modLine n Line.noteExpiry else s.failAttempt n .timeout
  | .running _, .receive => s.modLine n Line.noteExpiry
  | _, _ => s

/-- The backoff timer expires (R33). -/
def State.backoffExpiry (s : State) (n : LineId) : State :=
  if (s.line n).engine = .backoff ∧ (s.line n).timers.backoff.isSome then s.modLine n Line.enterQuiet else s

/-- RXn goes high: a receiver that waits for that waits for a falling edge, and in QUIET the quiet timer starts from the full gap
(R3, R4, R23). -/
def Line.rise (l : Line) : Line :=
  { l with
    rxHigh := true
    lowSinceEdge := false
    rxPhase := match l.rxPhase with
      | .waitHigh | .lowAfterCharacter | .breakHeld => .waitEdge
      | .notForming => .notForming
      | .waitEdge => .waitEdge
      | .inCharacter => .inCharacter
    timers := if l.engine = .quiet then { l.timers with quiet := some l.config.quietGap } else l.timers }

/-- RXn goes low: a start edge when the receiver waits for one, and in QUIET the quiet timer stops (R3, R23). -/
def Line.fall (l : Line) : Line :=
  { l with
    rxHigh := false
    lowSinceEdge := l.rxPhase = .waitEdge
    rxPhase := if l.rxPhase = .waitEdge then .inCharacter else l.rxPhase
    timers := if l.engine = .quiet then { l.timers with quiet := none } else l.timers }

/-- RXn takes a level (R3, R23). -/
def Line.rxLevel (l : Line) (high : Bool) : Line := if l.rxHigh = high then l else if high then l.rise else l.fall

/-- The half-bit sample finds RXn high (R3): no character is formed; a held expiry takes effect (R30). -/
def State.falseStartEvent (s : State) (n : LineId) : State :=
  let l := s.line n
  if l.rxPhase = .inCharacter ∧ l.rxHigh then
    let t := s.modLine n fun l => { l with rxPhase := .waitEdge }
    match l.engine, l.timers.response with
    | .await, .expired => t.failAttempt n .timeout
    | _, _ => t
  else s

end Sys2Proof.Machine
end

