-- ==== Sys2Proof/Machine/LinePort.lean ====
section
/-! DEFINITION. The events of a line: its receiver, its timers, its transmitter, its cycle timer, and the end of its stopping (R3, R4, R12,
R22 to R33, R36, R39, R94). An event that can bring the halt condition about is followed by its test (R180). -/

namespace Sys2Proof.Machine

/-- The engine has no work left: STOPPING, IDLE, no exchange held and an empty prefetch queue (R39). -/
def Line.noWorkLeft (l : Line) : Bool :=
  l.stopping.isSome && l.engine == .idle && l.exchange.isNone && l.prefetched.isEmpty

/-- STOPPING_LINE_OFF (R39): the engine goes to OFF, and its STOP LINE completes (R158). -/
def execStoppingLineOff (n : LineId) (s : State) : Host.Outcome State Fault Refusal :=
  .next (if (s.line n).noWorkLeft then (s.enterOff n).eventEnd else s)

/-- CHARACTER_RECEIVED (R3). -/
def execCharacterReceived (n : LineId) (bits : Vector Bool 8) (parityBit stopBit : Bool) (s : State) :
    Host.Outcome State Fault Refusal :=
  .next (s.handCharacter n bits parityBit stopBit).eventEnd

/-- BREAK_DETECTED (R4, R36). -/
def execBreakDetected (n : LineId) (s : State) : Host.Outcome State Fault Refusal := .next (s.breakReport n).eventEnd

/-- INTER_CHARACTER_LIMIT_EXPIRY (R12, R22). -/
def execInterCharacterLimitExpiry (n : LineId) (s : State) : Host.Outcome State Fault Refusal := .next (s.gapExpiry n).eventEnd

/-- QUIET_TIMER_EXPIRY (R23). -/
def execQuietTimerExpiry (n : LineId) (s : State) : Host.Outcome State Fault Refusal := .next (s.quietExpiry n)

/-- JAM_LIMIT_EXPIRY (R24). -/
def execJamLimitExpiry (n : LineId) (s : State) : Host.Outcome State Fault Refusal := .next (s.jamExpiry n).eventEnd

/-- LEAD_TIMER_EXPIRY (R25). -/
def execLeadTimerExpiry (n : LineId) (s : State) : Host.Outcome State Fault Refusal := .next (s.leadExpiry n)

/-- CHARACTER_SENT (R26, R27). -/
def execCharacterSent (n : LineId) (s : State) : Host.Outcome State Fault Refusal := .next (s.sentEvent n).eventEnd

/-- TRAIL_TIMER_EXPIRY (R28). -/
def execTrailTimerExpiry (n : LineId) (s : State) : Host.Outcome State Fault Refusal := .next (s.trailExpiry n).eventEnd

/-- RESPONSE_TIMER_EXPIRY (R29, R30, R32). -/
def execResponseTimerExpiry (n : LineId) (s : State) : Host.Outcome State Fault Refusal := .next (s.responseExpiry n).eventEnd

/-- BACKOFF_TIMER_EXPIRY (R33). -/
def execBackoffTimerExpiry (n : LineId) (s : State) : Host.Outcome State Fault Refusal := .next (s.backoffExpiry n)

/-- CYCLE_START (R94 to R98): the cycle timer of the line expires. -/
def execCycleStart (n : LineId) (s : State) : Host.Outcome State Fault Refusal :=
  .next (if (s.line n).cycleTimer.isRunning then (s.cycleExpiry n).askFetch else s)

/-- RXN_LEVEL_CHANGE (R3, R4, R23). -/
def execRxnLevelChange (n : LineId) (high : Bool) (s : State) : Host.Outcome State Fault Refusal :=
  .next (s.modLine n fun l => l.rxLevel high)

/-- FALSE_START (R3, R30). -/
def execFalseStart (n : LineId) (s : State) : Host.Outcome State Fault Refusal := .next (s.falseStartEvent n).eventEnd

end Sys2Proof.Machine
end

