-- ==== Sys2Proof/Machine/Dispatch.lean ====
section
/-! DEFINITION. The effect of a command: one arm for each constructor of Instr, each a direct call of its meaning. -/

namespace Sys2Proof.Machine

def exec (i : Instr) (s : State) : Host.Outcome State Fault Refusal :=
  match i with
  | .powerOnReset => Sys2Proof.Machine.execPowerOnReset s
  | .functionReset enableBit irqBit => Sys2Proof.Machine.execFunctionReset enableBit irqBit s
  | .resetValues => Sys2Proof.Machine.execResetValues s
  | .enableSet irqBit => Sys2Proof.Machine.execEnableSet irqBit s
  | .enableClear irqBit => Sys2Proof.Machine.execEnableClear irqBit s
  | .irqEnable irqBit => Sys2Proof.Machine.execIrqEnable irqBit s
  | .attentionAcknowledge value => Sys2Proof.Machine.execAttentionAcknowledge value s
  | .attentionMask value => Sys2Proof.Machine.execAttentionMask value s
  | .notify value => Sys2Proof.Machine.execNotify value s
  | .completionRelease value => Sys2Proof.Machine.execCompletionRelease value s
  | .captureRelease value => Sys2Proof.Machine.execCaptureRelease value s
  | .registerWrite offset value => Sys2Proof.Machine.execRegisterWrite offset value s
  | .busGrant => Sys2Proof.Machine.execBusGrant s
  | .contextLoadEnd error data => Sys2Proof.Machine.execContextLoadEnd error data s
  | .recordFetchEnd error data => Sys2Proof.Machine.execRecordFetchEnd error data s
  | .shadowWriteEnd error => Sys2Proof.Machine.execShadowWriteEnd error s
  | .completionWriteEnd error => Sys2Proof.Machine.execCompletionWriteEnd error s
  | .claimGrant => Sys2Proof.Machine.execClaimGrant s
  | .moderationHoldoffExpiry => Sys2Proof.Machine.execModerationHoldoffExpiry s
  | .captureWriteEnd error => Sys2Proof.Machine.execCaptureWriteEnd error s
  | .dataMoverBurstEnd line error data => Sys2Proof.Machine.execDataMoverBurstEnd line error data s
  | .adminDataWriteEnd error => Sys2Proof.Machine.execAdminDataWriteEnd error s
  | .configureLine tag body => Sys2Proof.Machine.execConfigureLine tag body s
  | .startLine tag body => Sys2Proof.Machine.execStartLine tag body s
  | .stopLine tag body => Sys2Proof.Machine.execStopLine tag body s
  | .defineStation tag body => Sys2Proof.Machine.execDefineStation tag body s
  | .modifyStation tag body => Sys2Proof.Machine.execModifyStation tag body s
  | .removeStation tag body => Sys2Proof.Machine.execRemoveStation tag body s
  | .holdStation tag body => Sys2Proof.Machine.execHoldStation tag body s
  | .releaseStation tag body => Sys2Proof.Machine.execReleaseStation tag body s
  | .readStation tag body => Sys2Proof.Machine.execReadStation tag body s
  | .definePoll tag body => Sys2Proof.Machine.execDefinePoll tag body s
  | .deletePoll tag body => Sys2Proof.Machine.execDeletePoll tag body s
  | .readLine tag body => Sys2Proof.Machine.execReadLine tag body s
  | .setCapture tag body => Sys2Proof.Machine.execSetCapture tag body s
  | .restartRing tag body => Sys2Proof.Machine.execRestartRing tag body s
  | .badCommand tag code body => Sys2Proof.Machine.execBadCommand tag code body s
  | .deferredCommandApply => Sys2Proof.Machine.execDeferredCommandApply s
  | .haltCondition => Sys2Proof.Machine.execHaltCondition s
  | .stoppingLineOff line => Sys2Proof.Machine.execStoppingLineOff line s
  | .characterReceived line bits parityBit stopBit => Sys2Proof.Machine.execCharacterReceived line bits parityBit stopBit s
  | .breakDetected line => Sys2Proof.Machine.execBreakDetected line s
  | .interCharacterLimitExpiry line => Sys2Proof.Machine.execInterCharacterLimitExpiry line s
  | .quietTimerExpiry line => Sys2Proof.Machine.execQuietTimerExpiry line s
  | .jamLimitExpiry line => Sys2Proof.Machine.execJamLimitExpiry line s
  | .leadTimerExpiry line => Sys2Proof.Machine.execLeadTimerExpiry line s
  | .characterSent line => Sys2Proof.Machine.execCharacterSent line s
  | .trailTimerExpiry line => Sys2Proof.Machine.execTrailTimerExpiry line s
  | .responseTimerExpiry line => Sys2Proof.Machine.execResponseTimerExpiry line s
  | .backoffTimerExpiry line => Sys2Proof.Machine.execBackoffTimerExpiry line s
  | .cycleStart line => Sys2Proof.Machine.execCycleStart line s
  | .rxnLevelChange line high => Sys2Proof.Machine.execRxnLevelChange line high s
  | .falseStart line => Sys2Proof.Machine.execFalseStart line s

end Sys2Proof.Machine
end

