-- ==== Sys2Proof/Safety.lean ====
section
/-! DEFINITION. What the manual says always holds of the block, in the terms the statements use: the bounds of its queues and counters,
the ranges of its station entries, and what FAULTED keeps. -/

namespace Sys2Proof.Machine

/-- A line's queues within their depths: 4 prefetched requests (R109), 8 follow-up entries, no two for one station (R110). -/
def Line.QueuesInBounds (l : Line) : Prop :=
  l.prefetched.length ≤ Config.prefetchDepth ∧ l.followUp.length ≤ Config.followUpDepth ∧
    (l.followUp.map fun f => f.slot).Nodup

/-- Every queue within its depth: the holding queue at most 16 completions (R151), each line's queues in bounds. -/
def State.QueuesInBounds (s : State) : Prop :=
  s.writer.holding.length ≤ Config.holdingDepth ∧ ∀ n : LineId, (s.line n).QueuesInBounds

/-- The failure count of a station lies in the range of its state, T being its threshold (R68); T is 1..15 in use (R66). -/
def Station.HealthInRange (st : Station) : Prop :=
  match st.state with
  | .absent => st.failures = 0
  | .probing => st.failures < st.threshold ∧ st.threshold ≤ 15
  | .online => st.failures = 0 ∧ 1 ≤ st.threshold ∧ st.threshold ≤ 15
  | .suspect => 1 ≤ st.failures ∧ st.failures < st.threshold ∧ st.threshold ≤ 15
  | .offline => st.failures = st.threshold ∧ 1 ≤ st.threshold ∧ st.threshold ≤ 15
  | .held => st.failures = 0 ∧ 1 ≤ st.threshold ∧ st.threshold ≤ 15

/-- The reprobe counter is 0 in every state but OFFLINE (R73). -/
def Station.ReprobeOnlyOffline (st : Station) : Prop := st.state ≠ .offline → st.reprobe = 0

/-- Every station entry keeps the ranges of R68 and R73. -/
def State.StationsInRange (s : State) : Prop :=
  ∀ k : SlotId, (s.station k).HealthInRange ∧ (s.station k).ReprobeOnlyOffline

/-- The seven counters of a line that saturate, and its share counter, stay within their widths (R38, R108). -/
def Line.CountersInRange (l : Line) : Prop :=
  l.counters.overruns ≤ Config.counterMax ∧ l.counters.jams ≤ Config.counterMax ∧ l.counters.breaks ≤ Config.counterMax ∧
    l.counters.strayCharacters ≤ Config.counterMax ∧ l.counters.strayFrames ≤ Config.counterMax ∧
    l.counters.noiseCharacters ≤ Config.counterMax ∧ l.counters.contentions ≤ Config.counterMax ∧ l.share ≤ 15

/-- Every saturating counter within its width: of the lines (R38, R108), the stations (R74), the polls (R89) and the moderation (R184). -/
def State.CountersInRange (s : State) : Prop :=
  (∀ n : LineId, (s.line n).CountersInRange) ∧
    (∀ k : SlotId, (s.station k).good ≤ Config.counterMax ∧ (s.station k).failed ≤ Config.counterMax) ∧
    (∀ id : PollId, (s.poll id).skipped ≤ Config.counterMax) ∧ s.writer.moderationCount ≤ 255

/-- Every poll entry in use stands once in its own line's list, a FREE entry in none (R89, R91), and the entry a DEFINE POLL is to fill
stays FREE while its header is written (R169). -/
def State.PollListsConsistent (s : State) : Prop :=
  (∀ n : LineId, (s.line n).pollList.Nodup) ∧
    (∀ (n : LineId) (id : PollId), id ∈ (s.line n).pollList ↔ (s.poll id).state ≠ .free ∧ (s.poll id).line = n) ∧
    (∀ tag a, s.admin = .writing tag (.definePoll a) → (s.poll a.id).state = .free)

/-- What a fault keeps (R154, R187): the device state, the cause first recorded, and the completions and indices of the completion ring as
they stood. -/
def State.FaultKept (s t : State) : Prop :=
  t.hbi.device = s.hbi.device ∧ t.hbi.faultCause = s.hbi.faultCause ∧ t.writer.holding = s.writer.holding ∧
    t.writer.producer = s.writer.producer ∧ t.writer.released = s.writer.released ∧
    t.ringUnit.rings = s.ringUnit.rings ∧ t.ringUnit.faultCount = s.ringUnit.faultCount

/-- The command starts, joins or completes a reset (R175, R181). -/
def isReset : Instr → Bool
  | .powerOnReset | .functionReset .. | .resetValues => true
  | .registerWrite offset value => writesReset offset value
  | _ => false

/-- Check k of R145, read from the record's bytes at the offsets of R192: the record fails it. -/
def RequestFails (data : Vector Byte 32) (k : Nat) : Prop :=
  let byte := fun j : Nat => data.toList.getD j 0#8
  let number := fun j : Nat => (byte j).toNat + 256 * (byte (j + 1)).toNat
  let flag := fun j : Nat => (byte 4).toNat / 2 ^ j % 2 = 1
  let address := (byte 5).toNat % 128
  match k with
  | 1 => flag 6 ∨ flag 7 ∨ 128 ≤ (byte 5).toNat ∨ (¬flag 4 ∧ ∃ j, 16 ≤ j ∧ j < 28 ∧ byte j ≠ 0#8)
  | 2 => (byte 6).toNat = 0 ∨ 0x6F < (byte 6).toNat
  | 3 => (address = 0 ∧ ¬flag 1) ∨ (address ≠ 0 ∧ flag 1) ∨ address = 127
  | 4 => flag 1 ∧ (number 10 ≠ 0 ∨ flag 2 ∨ flag 3)
  | 5 => flag 2 ∧ flag 3
  | 6 => flag 4 ∧ 16 < number 8
  | 7 => (64 < number 8 ∧ ¬flag 3) ∨ 4096 < number 8
  | 8 => (byte 7).toNat = 0 ∨ 64 < (byte 7).toNat
  | 9 => 4096 < number 10
  | 10 => (¬flag 4 ∧ 0 < number 8 ∧ (byte 12).toNat % 4 ≠ 0) ∨ (0 < number 10 ∧ (byte 28).toNat % 4 ≠ 0)
  | 11 => flag 4 ∧ flag 3
  | _ => False

/-- The claim that claimant k of R151 has waiting: lines 0..3, the Admin Processor, the Ring Unit, the notice scanner. -/
def State.claimOf (s : State) (k : Fin 7) : Option Completion :=
  match k with
  | 0 => (s.line 0).claim
  | 1 => (s.line 1).claim
  | 2 => (s.line 2).claim
  | 3 => (s.line 3).claim
  | 4 =>
    match s.admin with
    | .claiming c => some c
    | .idle | .writing .. | .deferred .. => none
  | 5 => s.ringUnit.claim.map Prod.snd
  | 6 => s.nextNotice.map s.noticeOf

/-- An admin record is taken as its fetch ends (R143, R147, R148): the burst in progress is the admin ring's fetch, no reset waits, the device is
RUNNING, the Admin Processor holds no command, and the fetch is not one that HALTING has voided. -/
def State.AdminTakes (s : State) : Prop :=
  s.burstOf (.ringFetch 0) = true ∧ s.hbi.resetting = none ∧ s.hbi.device = .running ∧ s.admin = .idle ∧
    s.ringUnit.fetchVoid = false

/-- The take itself (R148): the bus is free, the admin ring's consumer index has risen by 1 and the shadow area is marked. -/
def State.adminTaken (s : State) : State :=
  { s with
    hbi := { s.hbi with burst := none }
    ringUnit := { s.ringUnit with
      rings := s.ringUnit.rings.set 0 { s.ring 0 with consumer := (s.ring 0).consumer + 1 }, shadowMarked := true } }

/-- The bytes of an admin record from an offset on are zero (R156 step 2, R193). -/
def ZeroFrom (body : AdminBody) (offset : Nat) : Prop := ∀ k, offset ≤ k → k < 32 → argByte body k = 0#8

/-- The five station settings at consecutive offsets lie in the ranges of R163: response timeout, retry limit, offline threshold, reprobe
interval, event capture enable. -/
def StationSettingsValid (body : AdminBody) (offset : Nat) : Prop :=
  1 ≤ argNat body offset ∧ argNat body (offset + 1) ≤ 7 ∧ (1 ≤ argNat body (offset + 2) ∧ argNat body (offset + 2) ≤ 15) ∧
    1 ≤ argNat body (offset + 3) ∧ argNat body (offset + 4) ≤ 1

end Sys2Proof.Machine
end

