-- ==== Sys2Proof/WellFormed.lean ====
section
/-! DEFINITION. The operand checks of a command. Nearly every operand's type already is its range: only BAD_COMMAND has one that can be
out of it. -/

namespace Sys2Proof

/-- A code of BAD_COMMAND is not one of 01h..0Eh (R156 step 1). -/
def unknownCode (code : Byte) : Bool := code.toNat == 0 || decide (14 < code.toNat)

/-- A command is well formed. -/
def Instr.wellFormed : Instr → Bool
  | .badCommand _ code _ => unknownCode code
  | .powerOnReset | .functionReset .. | .resetValues | .enableSet _ | .enableClear _ | .irqEnable _ | .attentionAcknowledge _
  | .attentionMask _ | .notify _ | .completionRelease _ | .captureRelease _ | .registerWrite .. | .busGrant
  | .contextLoadEnd .. | .recordFetchEnd .. | .shadowWriteEnd _ | .completionWriteEnd _ | .claimGrant
  | .moderationHoldoffExpiry | .captureWriteEnd _ | .dataMoverBurstEnd .. | .adminDataWriteEnd _ | .configureLine ..
  | .startLine .. | .stopLine .. | .defineStation .. | .modifyStation .. | .removeStation .. | .holdStation ..
  | .releaseStation .. | .readStation .. | .definePoll .. | .deletePoll .. | .readLine .. | .setCapture .. | .restartRing ..
  | .deferredCommandApply | .haltCondition | .stoppingLineOff _ | .characterReceived .. | .breakDetected _
  | .interCharacterLimitExpiry _ | .quietTimerExpiry _ | .jamLimitExpiry _ | .leadTimerExpiry _ | .characterSent _
  | .trailTimerExpiry _ | .responseTimerExpiry _ | .backoffTimerExpiry _ | .cycleStart _ | .rxnLevelChange .. | .falseStart _ => true

end Sys2Proof
end

