-- ==== Sys2Proof/Certificates/Slice0/Obligations.lean ====
section
/-! DEFINITION. The statements about the PL4 that the provers prove. Each docstring names the rules of spec/ it formalises. A statement
about a command of a burst's end, of a register write or of an admin record takes the state in which that event can occur as its
hypothesis. -/

section Statements

open Sys2Proof Sys2Proof.Machine

/-! ### The queue of commands, reset, the invariants and FAULTED -/

/-- A step takes the command at the front of the queue and runs it with the queue's rest; with no command waiting it changes nothing (the
model's choice, log entry 2). -/
def Obligations.StepRunsTheFrontCommand : Prop :=
  (∀ (c : Instr) (rest : List Instr) (s : State), step { s with pending := c :: rest } = exec c { s with pending := rest }) ∧
    ∀ s : State, s.pending = [] → step s = .next s

/-- Every command, in every state, answers a next state, and no command touches the queue of commands: the manual gives no command an
effect that stops the part, and where a command's event cannot occur the state stays (the model's choice, log entry 1). -/
def Obligations.EveryCommandAnswersAndKeepsTheQueue : Prop :=
  ∀ (c : Instr) (s : State), ∃ t, exec c s = .next t ∧ t.pending = s.pending

/-- The four invariants hold right after power-on reset. -/
def Obligations.ResetStateIsInRange : Prop :=
  State.reset.QueuesInBounds ∧ State.reset.StationsInRange ∧ State.reset.CountersInRange ∧ State.reset.PollListsConsistent

/-- The depths of R109 (4 requests), R110 (8 follow-up entries, one for each station) and R151 (16 completions) are never passed. -/
def Obligations.StepKeepsQueueDepths : Prop :=
  ∀ s t : State, s.QueuesInBounds → step s = .next t → t.QueuesInBounds

/-- The failure count of a station lies in the range of its state (R68), and only an OFFLINE entry has a reprobe count (R73). -/
def Obligations.StepKeepsStationRanges : Prop :=
  ∀ s t : State, s.StationsInRange → step s = .next t → t.StationsInRange

/-- The saturating counters stay within the widths of R38, R74, R89, R108 and R184. -/
def Obligations.StepKeepsCounterRanges : Prop :=
  ∀ s t : State, s.CountersInRange → step s = .next t → t.CountersInRange

/-- A poll entry in use stands exactly once in its own line's list, and a FREE entry in none (R89, R91). -/
def Obligations.StepKeepsPollLists : Prop :=
  ∀ s t : State, s.PollListsConsistent → step s = .next t → t.PollListsConsistent

/-- In FAULTED no command but a reset changes the device state, the recorded cause, the holding queue, the completion ring's indices, the
rings or the count of ring faults (R140, R153, R154, R187). That a record fetch which ends with a bus error in FAULTED faults no ring is
the model's choice (log entry 27). -/
def Obligations.FaultedIsLeftOnlyByReset : Prop :=
  ∀ (c : Instr) (s t : State), isReset c = false → s.hbi.device = .faulted → exec c s = .next t → s.FaultKept t

/-- After power-on reset the registers read the values of R174, the interrupt output is released, every line is OFF with the settings of
R18 and its counters zero, every station is ABSENT, every poll entry FREE, the Capture Unit disabled, no ring loaded and the phase 1. -/
def Obligations.ResetLeavesTheStatedValues : Prop :=
  State.reset.readRegister 0x00#6 = 0x00015034#32 ∧
    (∀ k : BitVec 6, 4 ≤ k.toNat → State.reset.readRegister k = 0#32) ∧
    State.reset.interrupt = false ∧ State.reset.hbi.device = .unconfigured ∧
    (∀ n : LineId,
      (State.reset.line n).engine = .off ∧ (State.reset.line n).counters = LineCounters.zero ∧
        (State.reset.line n).config =
          { divisor := 2500, parity := .none, stopBits := 1, leadDelay := 1, trailDelay := 1, quietGap := 20,
            interCharacterLimit := 20, echoCheck := false, busyLimit := 3, busyBackoff := 10, cyclePeriod := 1000,
            oneShotShare := 4 }) ∧
    (∀ k : SlotId, (State.reset.station k).state = .absent) ∧ (∀ id : PollId, (State.reset.poll id).state = .free) ∧
    State.reset.capture.config = none ∧ (∀ r : RingId, (State.reset.ring r).state = .notLoaded) ∧
    State.reset.writer.phase = true ∧ State.reset.writer.holding = []

/-- A power-on or function reset (R181). With no burst in progress every block takes its reset values in one event; the level of each
receive input is the outside's and is kept (the model's choice, log entry 9). With a burst in progress the reset waits for its end, a
second reset joins it and gives its own cause, the burst's outcome is discarded, and then RESET_VALUES takes the reset values and serves
the held accesses in order. How the wait is cut into events, and that RESET_VALUES taken with the burst still in progress ends both, is
the model's choice (log entry 10). -/
def Obligations.ResetTakesItsSteps : Prop :=
  (∀ (s : State) (enable irq : Bool), s.hbi.burst = none → s.hbi.resetting = none →
     (∃ t, exec .powerOnReset s = .next t ∧ t.hbi = Hbi.reset .powerOn ∧ t.ringUnit = .reset ∧ t.writer = .reset ∧ t.admin = .idle ∧
       t.capture = .reset ∧ (∀ k, t.station k = .absent) ∧ (∀ id, t.poll id = .free) ∧
       (∀ n, t.line n = { Line.reset with rxHigh := (s.line n).rxHigh }) ∧ t.pending = s.pending) ∧
     (∃ t, exec (.functionReset enable irq) s = .next t ∧ t.hbi = Hbi.reset .function ∧ t.ringUnit = .reset ∧ t.writer = .reset ∧
       t.admin = .idle ∧ t.capture = .reset ∧ (∀ k, t.station k = .absent) ∧ (∀ id, t.poll id = .free) ∧
       (∀ n, t.line n = { Line.reset with rxHigh := (s.line n).rxHigh }) ∧ t.pending = s.pending)) ∧
  (∀ (s : State) (enable irq : Bool), s.hbi.burst.isSome ∨ s.hbi.resetting.isSome →
     exec .powerOnReset s = .next (s.modHbi fun h => { h with resetting := some .powerOn }) ∧
     exec (.functionReset enable irq) s = .next (s.modHbi fun h => { h with resetting := some .function }) ∧
     (∀ cause, s.hbi.resetting = some cause →
       (∀ error, s.burstOf .shadowWriter = true →
         exec (.shadowWriteEnd error) s = .next (s.modHbi fun h => { h with burst := none })) ∧
       (∀ error, s.burstOf .completionWriter = true →
         exec (.completionWriteEnd error) s = .next (s.modHbi fun h => { h with burst := none })) ∧
       (∀ error, s.burstOf .captureWriter = true →
         exec (.captureWriteEnd error) s = .next (s.modHbi fun h => { h with burst := none })) ∧
       (∀ n error data, s.burstOf (.dataMover n) = true →
         exec (.dataMoverBurstEnd n error data) s = .next (s.modHbi fun h => { h with burst := none })) ∧
       (∀ error, s.burstOf .adminWriter = true →
         exec (.adminDataWriteEnd error) s = .next (s.modHbi fun h => { h with burst := none })) ∧
       (∀ r error data, s.burstOf (.ringFetch r) = true →
         exec (.recordFetchEnd error data) s = .next (s.modHbi fun h => { h with burst := none })) ∧
       (∀ error data, s.burstOf .contextLoader = true →
         exec (.contextLoadEnd error data) s = .next (s.modHbi fun h => { h with burst := none })) ∧
       exec .busGrant s = .next s ∧
       exec .resetValues s = .next (s.hbi.held.foldl State.serve (s.takeReset cause))))

/-- The register writes that arrive in step 1 of a reset are held in their order, with no other effect, and after step 2 each is served as
its own command would be from the state then reached (R181). A write of CONTROL with RESET one that arrives in step 1 joins the reset and
gives its cause (R175, R181). -/
def Obligations.HeldWritesAreServedInOrder : Prop :=
  (∀ (s : State) (offset : BitVec 6) (value : Word), s.hbi.resetting.isSome → offset.toNat / 4 = 1 → value[1] = true →
    exec (.registerWrite offset value) s = .next (s.modHbi fun h => { h with resetting := some .function })) ∧
  (∀ (s : State) (c : Instr), s.hbi.resetting.isSome →
    (match c with
     | .enableSet _ | .enableClear _ | .irqEnable _ | .attentionAcknowledge _ | .attentionMask _ | .notify _ | .completionRelease _
     | .captureRelease _ => true
     | .registerWrite offset value => !writesReset offset value
     | _ => false) = true →
    exec c s = .next (s.modHbi fun h => { h with held := h.held ++ [c] })) ∧
  (∀ (s : State) (c : Instr), s.hbi.resetting = none →
    (match c with
     | .enableSet _ | .enableClear _ | .irqEnable _ | .attentionAcknowledge _ | .attentionMask _ | .notify _ | .completionRelease _
     | .captureRelease _ => true
     | .registerWrite offset value => !writesReset offset value
     | _ => false) = true →
    exec c s = .next (s.serve c))

/-! ### The registers the host writes -/

/-- A CONTROL write (R175): RESET one discards the other two bits; otherwise IRQ_ENABLE takes its value, and ENABLE its value with the
effect the table gives for the device state; ENABLE as it was has no effect on the device state. -/
def Obligations.ControlWriteFollowsItsTable : Prop :=
  ∀ (s : State) (irq : Bool), s.hbi.resetting = none →
    (∀ a b a' b' : Bool, exec (.functionReset a b) s = exec (.functionReset a' b') s) ∧
    exec (.irqEnable irq) s = .next (s.modHbi fun h => { h with irqEnable := irq }) ∧
    (s.hbi.enable = true → exec (.enableSet irq) s = .next (s.modHbi fun h => { h with irqEnable := irq })) ∧
    (s.hbi.enable = false → exec (.enableClear irq) s = .next (s.modHbi fun h => { h with irqEnable := irq })) ∧
    (s.hbi.enable = false →
      let t := s.modHbi fun h => { h with irqEnable := irq, enable := true }
      (s.hbi.device = .unconfigured → s.hbi.contextAddress.toNat % 64 = 0 →
        exec (.enableSet irq) s = .next (t.modHbi fun h => { h with device := .loading })) ∧
      (s.hbi.device = .unconfigured → s.hbi.contextAddress.toNat % 64 ≠ 0 →
        exec (.enableSet irq) s = .next (t.enterFaulted .contextInvalid)) ∧
      (s.hbi.device = .halted → exec (.enableSet irq) s = .next t.returnToRunning) ∧
      (s.hbi.device = .loading ∨ s.hbi.device = .running ∨ s.hbi.device = .halting ∨ s.hbi.device = .faulted →
        exec (.enableSet irq) s = .next t)) ∧
    (s.hbi.enable = true →
      let t := s.modHbi fun h => { h with irqEnable := irq, enable := false }
      (s.hbi.device = .running → exec (.enableClear irq) s = .next t.enterHalting) ∧
      (s.hbi.device ≠ .running → exec (.enableClear irq) s = .next t))

/-- The interrupt output (R183): asserted while IRQ_ENABLE is set and a cause is both latched and set in the mask; a mask or IRQ_ENABLE
write changes just that; after a reset the output is released. -/
def Obligations.InterruptFollowsMaskAndEnable : Prop :=
  (∀ s : State, s.interrupt = true ↔
    s.hbi.irqEnable = true ∧ ∃ i : Fin 7, s.hbi.attention[i] = true ∧ s.hbi.mask[i] = true) ∧
  (∀ (s : State) (value : Word), s.hbi.resetting = none →
    ∃ t, exec (.attentionMask value) s = .next t ∧ (∀ i : Fin 7, t.hbi.mask[i] = value[i.val]) ∧
      t = s.modHbi fun h => { h with mask := t.hbi.mask }) ∧
  (∀ (s : State) (irq : Bool), s.hbi.resetting = none →
    exec (.irqEnable irq) s = .next (s.modHbi fun h => { h with irqEnable := irq })) ∧
  State.reset.interrupt = false ∧ ∀ (s : State) (cause : ResetCause), (s.takeReset cause).interrupt = false

/-- A write of ATTENTION clears each cause written as one and keeps the others (R182); COMPLETION written as one clears the moderation
count and stops the holdoff timer (R184), also when it was not latched (the model's choice, log entry 12). -/
def Obligations.AcknowledgeClearsWhatIsWritten : Prop :=
  ∀ (s : State) (value : Word), s.hbi.resetting = none →
    ∃ t, exec (.attentionAcknowledge value) s = .next t ∧
      (∀ i : Fin 7, t.hbi.attention[i] = (s.hbi.attention[i] && !value[i.val])) ∧
      (value[0] = false → t = s.modHbi fun h => { h with attention := t.hbi.attention }) ∧
      (value[0] = true →
        t = (s.modHbi fun h => { h with attention := t.hbi.attention }).modWriter fun w =>
          { w with moderationCount := 0, holdoffTimer := none })

/-- A register access acts at the word of the window that holds its offset (R174, R200): the eight writable registers as their own
commands, also a CONTROL write with RESET one during a reset, CONTEXT ADDRESS only in UNCONFIGURED, MODERATION by its two fields; every
other offset is ignored. A read returns what R174, R136 and R176 name, at the bits of R200: IDENT, ENABLE and IRQ_ENABLE, the items of
STATUS, the latched causes, the mask, CONTEXT ADDRESS, the released index, the release offset, CAPTURE POSITION, MODERATION, and 0
elsewhere; a disabled Capture Unit's mode reads 0 (the model's choice, log entry 34). A read that arrives in step 1 of a reset is served
after step 2, behind the writes held (R181; that it returns what the window then holds is the model's reading, log entry 11). -/
def Obligations.RegisterWriteActsAtItsOffset : Prop :=
  (∀ (s : State) (offset : BitVec 6) (value : Word), offset.toNat / 4 = 1 → value[1] = true →
    exec (.registerWrite offset value) s = exec (.functionReset value[0] value[2]) s) ∧
  (∀ (s : State) (offset : BitVec 6) (value : Word), s.hbi.resetting = none →
    (offset.toNat / 4 = 1 → value[1] = false →
      exec (.registerWrite offset value) s =
        exec (if value[0] then .enableSet value[2] else .enableClear value[2]) s) ∧
    (offset.toNat / 4 = 3 → exec (.registerWrite offset value) s = exec (.attentionAcknowledge value) s) ∧
    (offset.toNat / 4 = 4 → exec (.registerWrite offset value) s = exec (.attentionMask value) s) ∧
    (offset.toNat / 4 = 5 → s.hbi.device = .unconfigured →
      exec (.registerWrite offset value) s = .next (s.modHbi fun h => { h with contextAddress := value })) ∧
    (offset.toNat / 4 = 5 → s.hbi.device ≠ .unconfigured → exec (.registerWrite offset value) s = .next s) ∧
    (offset.toNat / 4 = 6 → exec (.registerWrite offset value) s = exec (.notify value) s) ∧
    (offset.toNat / 4 = 7 → exec (.registerWrite offset value) s = exec (.completionRelease value) s) ∧
    (offset.toNat / 4 = 8 → exec (.registerWrite offset value) s = exec (.captureRelease value) s) ∧
    (offset.toNat / 4 = 10 →
      exec (.registerWrite offset value) s = .next (s.modWriter fun w =>
        { w with threshold := BitVec.ofNat 8 value.toNat, holdoff := BitVec.ofNat 16 (value.toNat / 65536) })) ∧
    (offset.toNat / 4 ∈ [0, 2, 9, 11, 12, 13, 14, 15] → exec (.registerWrite offset value) s = .next s)) ∧
  (∀ (s : State) (offset : BitVec 6), s.hbi.resetting = none →
    let read := s.readRegister offset
    let one := fun b : Bool => if b then 1 else 0
    (offset.toNat / 4 = 0 → read = 0x00015034#32) ∧
    (offset.toNat / 4 = 1 → read.toNat = one s.hbi.enable + 4 * one s.hbi.irqEnable) ∧
    (offset.toNat / 4 = 2 →
      read.toNat % 16 = [DeviceState.unconfigured, .loading, .running, .halting, .halted, .faulted].idxOf s.hbi.device ∧
      read.toNat / 16 % 8 =
        [FaultCause.none, .contextInvalid, .contextBusError, .shadowBusError, .completionBusError].idxOf s.hbi.faultCause ∧
      read[7] = (s.hbi.lastReset == .function) ∧
      (∀ n : LineId, read.getLsbD (8 + n.val) = ((s.line n).eventJam || (s.line n).eventBreak || (s.line n).eventOverrun)) ∧
      read.toNat / 4096 % 16 = 0 ∧ read[16] = s.capture.config.isSome ∧
      (∀ g, s.capture.config = some g → read[17] = (g.mode == .loop)) ∧ (s.capture.config = none → read[17] = false) ∧
      read[18] = s.capture.paused ∧ read[19] = s.capture.fault ∧ read[20] = s.capture.badRelease ∧ read[21] = s.capture.reconfig ∧
      read.toNat < 4194304) ∧
    (offset.toNat / 4 = 3 → read.toNat = s.hbi.attention.toNat) ∧ (offset.toNat / 4 = 4 → read.toNat = s.hbi.mask.toNat) ∧
    (offset.toNat / 4 = 5 → read = s.hbi.contextAddress) ∧
    (offset.toNat / 4 = 7 → read.toNat = s.writer.released.toNat) ∧
    (offset.toNat / 4 = 8 → s.capture.releaseOffset < 1048576 → read.toNat = s.capture.releaseOffset) ∧
    (offset.toNat / 4 = 9 → s.capture.writeOffset < 1048576 →
      read.toNat = s.capture.writeOffset + 1048576 * (s.capture.lapCount.toNat % 4096)) ∧
    (offset.toNat / 4 = 10 → read.toNat = s.writer.threshold.toNat + 65536 * s.writer.holdoff.toNat) ∧
    (offset.toNat / 4 ∈ [6, 11, 12, 13, 14, 15] → read = 0#32)) ∧
  ∀ (s : State) (offset : BitVec 6) (cause : ResetCause), s.hbi.resetting = some cause →
    s.readRegister offset = (s.hbi.held.foldl State.serve (s.takeReset cause)).readRegister offset

/-- A write of NOTIFY (R140): ignored outside RUNNING, HALTING and HALTED and for a FAULTED ring; a ring id of 5..15 is a ring fault
BAD_NOTIFY; for an ACTIVE ring a valid P becomes the accepted producer index, and an invalid P faults the ring, which keeps its indices. A
NOTIFY to an ACTIVE ring may make it, or another ring, the one the ring-fetch requester asks for, in the same event (R143; the moment of
the asking is the model's choice, log entry 37). A ring fault (R141) replaces the recorded cause and ring id, raises the 8-bit count,
which wraps, marks the shadow area and latches RING_FAULT, and changes nothing else. -/
def Obligations.NotifyIsValidated : Prop :=
  (∀ (s : State) (value : Word), s.hbi.resetting = none →
     let id := value.toNat / 65536 % 16
     let p := value.toNat % 65536
     (s.hbi.device = .unconfigured ∨ s.hbi.device = .loading ∨ s.hbi.device = .faulted → exec (.notify value) s = .next s) ∧
     (s.hbi.device = .running ∨ s.hbi.device = .halting ∨ s.hbi.device = .halted →
       (5 ≤ id → exec (.notify value) s = .next (s.ringFault .badNotify (BitVec.ofNat 4 id))) ∧
       ∀ r : RingId, r.val = id →
         ((s.ring r).state = .faulted → exec (.notify value) s = .next s) ∧
         ((s.ring r).state = .active →
           let c := (s.ring r).consumer.toNat
           let q := (s.ring r).accepted.toNat
           let ahead := (p + 65536 - c) % 65536
           ((q + 65536 - c) % 65536 ≤ ahead → ahead ≤ (s.ring r).size →
             exec (.notify value) s = .next (s.modRing r fun g => { g with accepted := BitVec.ofNat 16 p }).askFetch) ∧
           (ahead < (q + 65536 - c) % 65536 ∨ (s.ring r).size < ahead →
             exec (.notify value) s =
               .next ((s.modRing r fun g => { g with state := .faulted }).ringFault .badProducer (BitVec.ofNat 4 id)).askFetch)))) ∧
  (∀ (s : State) (cause : RingFaultCause) (id : BitVec 4),
     let t := s.ringFault cause id
     t.ringUnit.faultCause = cause ∧ t.ringUnit.faultRing = id ∧ t.ringUnit.shadowMarked = true ∧
       t.ringUnit.faultCount.toNat = (s.ringUnit.faultCount.toNat + 1) % 256 ∧ t.ringUnit.rings = s.ringUnit.rings ∧
       t.ringUnit =
         { s.ringUnit with faultCause := cause, faultRing := id, faultCount := t.ringUnit.faultCount, shadowMarked := true } ∧
       (∀ i : Fin 7, t.hbi.attention[i] = (s.hbi.attention[i] || i.val == 4)) ∧
       t = (s.modRingUnit fun _ => t.ringUnit).modHbi fun h => { h with attention := t.hbi.attention })

/-- A write of COMPLETION RELEASE (R153): ignored outside RUNNING, HALTING and HALTED; V is valid when (V - R) mod 65536 does not exceed
(W - R) mod 65536, and then becomes the released index; otherwise it is a ring fault BAD_RELEASE of ring 5. -/
def Obligations.CompletionReleaseIsValidated : Prop :=
  ∀ (s : State) (value : Word), s.hbi.resetting = none →
    let v := value.toNat % 65536
    let r := s.writer.released.toNat
    let w := s.writer.producer.toNat
    (s.hbi.device = .unconfigured ∨ s.hbi.device = .loading ∨ s.hbi.device = .faulted →
      exec (.completionRelease value) s = .next s) ∧
    (s.hbi.device = .running ∨ s.hbi.device = .halting ∨ s.hbi.device = .halted →
      ((v + 65536 - r) % 65536 ≤ (w + 65536 - r) % 65536 →
        exec (.completionRelease value) s = .next (s.modWriter fun w => { w with released := BitVec.ofNat 16 v })) ∧
      ((w + 65536 - r) % 65536 < (v + 65536 - r) % 65536 →
        exec (.completionRelease value) s = .next (s.ringFault .badRelease 5#4)))

/-- A write of CAPTURE RELEASE (R132): ignored in LOOP mode, while the unit is disabled, and in FAULTED (R187); in HOLD mode a valid
offset releases its bytes and pause is evaluated, an invalid one sets the bad-release flag and latches CAPTURE_EVENT. Pause evaluation
(R126) by the flag and the free space of R125: set below the stop mark, cleared at the resume mark, each with CAPTURE_EVENT latched;
otherwise nothing changes. -/
def Obligations.CaptureReleaseIsValidated : Prop :=
  (∀ (s : State) (value : Word), s.hbi.resetting = none →
     let v := value.toNat % 1048576
     (s.hbi.device = .faulted → exec (.captureRelease value) s = .next s) ∧
     (s.capture.config = none → exec (.captureRelease value) s = .next s) ∧
     (∀ g, s.capture.config = some g → g.mode = .loop → exec (.captureRelease value) s = .next s) ∧
     (∀ g, s.hbi.device ≠ .faulted → s.capture.config = some g → g.mode = .hold →
       let span := (s.capture.writeOffset + g.size - s.capture.releaseOffset) % g.size
       let released := (v + g.size - s.capture.releaseOffset) % g.size
       (v % 4 = 0 → v < g.size → released ≤ span →
         exec (.captureRelease value) s =
           .next (s.modCapture fun c =>
             { c with releaseOffset := v, unreleased := c.unreleased - released }).evaluatePause) ∧
       (v % 4 ≠ 0 ∨ g.size ≤ v ∨ span < released →
         ∃ t, exec (.captureRelease value) s = .next t ∧
           (∀ i : Fin 7, t.hbi.attention[i] = (s.hbi.attention[i] || i.val == 2)) ∧
           t = (s.modCapture fun c => { c with badRelease := true }).modHbi fun h => { h with attention := t.hbi.attention }))) ∧
  (∀ s : State,
     (∀ g, s.capture.config = some g → g.mode = .hold →
       let free := g.size - s.capture.unreleased - s.capture.reserved
       (s.capture.paused = false → free < g.stopMark →
         s.evaluatePause = (s.modCapture fun c => { c with paused := true }).latch .captureEvent) ∧
       (s.capture.paused = false → g.stopMark ≤ free → s.evaluatePause = s) ∧
       (s.capture.paused = true → g.resumeMark ≤ free →
         s.evaluatePause = (s.modCapture fun c => { c with paused := false }).latch .captureEvent) ∧
       (s.capture.paused = true → free < g.resumeMark → s.evaluatePause = s)) ∧
     (∀ g, s.capture.config = some g → g.mode = .loop → s.evaluatePause = s) ∧ (s.capture.config = none → s.evaluatePause = s))

/-! ### The host bus -/

/-- The bus-master arbiter (R185): with the bus free it grants the first waiting requester counting from its pointer, whose burst is then
in progress, and the pointer moves past it; with no request, a burst in progress, a reset waiting (R181) or in FAULTED (R187) nothing is
granted. At its grant the fetched ring becomes the one fetched last and its request is gone (R143), a new shadow copy clears the mark and
keeps what the burst leaves, the second burst leaves none (R142), the first slot write fixes its stamp (R102), READ STATION and READ LINE
read what their record shows (R168, R171), and every other grant changes nothing. The contents of a burst are read at the grant, which is
its own event (the model's reading, log entry 6). The ring-fetch requester asks for the ring it took when it became free, while that ring
is eligible, and otherwise for the first eligible ring after the one fetched last (R143, R185; that a request falls with its ring's
eligibility is the model's choice, log entry 37). What each requester asks for, with its address, length and bytes: the 64 bytes of the
context block (R137); the next record of the ring whose turn it is (R139, R143); the shadow area of R199; the head of the holding queue
with the current phase (R152); the next part of a payload read, of a response write and of the four slot writes (R61, R102, R196); a PAD's
header and the next part of the record at the head of the write queue (R130); the records of R195 and the fresh slot header of R93. A
burst ends at the next 64-byte-aligned boundary (R185). The moment a slot header's skipped counter is read is the model's choice (log
entry 20). -/
def Obligations.BusIsGrantedRoundRobin : Prop :=
  (∀ s : State,
     (s.hbi.burst.isSome ∨ s.hbi.resetting.isSome ∨ s.hbi.device = .faulted → exec .busGrant s = .next s) ∧
     (s.hbi.burst = none → s.hbi.resetting = none → s.hbi.device ≠ .faulted →
       ((∀ k, s.request k = none) → exec .busGrant s = .next s) ∧
       ∀ (k j : Fin 10) (b : Burst), k = s.hbi.busPointer + j → s.request k = some b →
         (∀ i : Fin 10, i < j → s.request (s.hbi.busPointer + i) = none) →
         exec .busGrant s =
           .next ((s.atGrant b.owner).modHbi fun h => { h with burst := some b, busPointer := s.hbi.busPointer + j + 1 }))) ∧
  (∀ s : State,
     s.atGrant .contextLoader = s ∧ s.atGrant .completionWriter = s ∧ s.atGrant .captureWriter = s ∧
     (∀ r : RingId, s.atGrant (.ringFetch r) = s.modRingUnit fun u =>
       { u with fetchNext := r + 1, requested := none, fetchVoid := false }) ∧
     (∀ rest, s.ringUnit.shadowRest = some rest →
       let room := 64 - (s.ringUnit.shadowAddress + BitVec.ofNat 32 (32 - rest.length)).toNat % 64
       s.atGrant .shadowWriter = s.modRingUnit fun u =>
         { u with shadowRest := if rest.length ≤ room then none else some (rest.drop room) }) ∧
     (∀ n w status data done stamp, (s.line n).job = some (.slotWrite w status data done stamp) → w ≠ .oddGeneration →
       s.atGrant (.dataMover n) = s) ∧
     (∀ n, (∀ w status data done stamp, (s.line n).job ≠ some (.slotWrite w status data done stamp)) → s.atGrant (.dataMover n) = s) ∧
     (∀ tag a, s.admin = .writing tag (.definePoll a) → s.atGrant .adminWriter = s) ∧
     (∀ n status data done stamp, (s.line n).job = some (.slotWrite .oddGeneration status data done stamp) →
       s.atGrant (.dataMover n) = s.modLine n fun l =>
         { l with job := some (.slotWrite .oddGeneration status data done (s.line n).counters.cycle) }) ∧
     (∀ tag k address shown, s.admin = .writing tag (.readStation k address shown) →
       s.atGrant .adminWriter = s.setAdmin (.writing tag (.readStation k address (some (s.station k).state)))) ∧
     (∀ tag n address shown, s.admin = .writing tag (.readLine n address shown) →
       s.atGrant .adminWriter = s.setAdmin (.writing tag (.readLine n address (some
         { jam := (s.line n).eventJam, breakCause := (s.line n).eventBreak, overrun := (s.line n).eventOverrun,
           breakFlag := (s.line n).breakFlag }))))) ∧
  ∀ s : State,
    let half := fun k : Nat => [BitVec.ofNat 8 k, BitVec.ofNat 8 (k / 256)]
    let word := fun k : Nat => half k ++ half (k / 65536)
    let one := fun b : Bool => if b then 1 else 0
    let room := fun a : Word => 64 - a.toNat % 64
    let read := fun (owner : Requester) (a : Word) (k : Nat) =>
      (some { owner := owner, address := a, length := min k (room a), data := none } : Option Burst)
    let write := fun (owner : Requester) (a : Word) (bytes : List Byte) =>
      (some { owner := owner, address := a, length := min bytes.length (room a), data := some (bytes.take (room a)) } : Option Burst)
    let works := s.hbi.device = .running ∨ s.hbi.device = .halting ∨ s.hbi.device = .halted
    let faulted := fun r : RingId => one (decide ((s.ring r).state = .faulted))
    let area : List Byte :=
      half (s.ring 0).consumer.toNat ++ half (s.ring 1).consumer.toNat ++ half (s.ring 2).consumer.toNat ++
      half (s.ring 3).consumer.toNat ++ half (s.ring 4).consumer.toNat ++
      [BitVec.ofNat 8 (faulted 0 + 2 * faulted 1 + 4 * faulted 2 + 8 * faulted 3 + 16 * faulted 4), 0#8,
       BitVec.ofNat 8 ([RingFaultCause.none, .badProducer, .badNotify, .fetchError, .badRelease].idxOf s.ringUnit.faultCause),
       BitVec.ofNat 8 s.ringUnit.faultRing.toNat, s.ringUnit.faultCount] ++ List.replicate 17 0#8
    (s.hbi.device = .loading →
      s.request 0 = some { owner := .contextLoader, address := s.hbi.contextAddress, length := 64, data := none }) ∧
    (s.hbi.device ≠ .loading → s.request 0 = none) ∧
    (s.ringToFetch = none → s.request 1 = none) ∧
    (∀ r, s.ringToFetch = some r →
      s.request 1 = some
        { owner := .ringFetch r, length := 32, data := none
          address := (s.ring r).base + BitVec.ofNat 32 (32 * ((s.ring r).consumer.toNat % (s.ring r).size)) }) ∧
    (∀ r, s.ringUnit.requested = some r → s.ringEligible r = true → s.ringToFetch = some r) ∧
    ((∀ r, s.ringUnit.requested = some r → s.ringEligible r = false) → s.ringToFetch = s.nextRing) ∧
    ((∀ r, s.ringEligible r = false) → s.nextRing = none) ∧
    (∀ j : RingId, s.ringEligible (s.ringUnit.fetchNext + j) = true →
      (∀ i : RingId, i < j → s.ringEligible (s.ringUnit.fetchNext + i) = false) → s.nextRing = some (s.ringUnit.fetchNext + j)) ∧
    (¬works → s.request 2 = none ∧ s.request 3 = none ∧ s.request 8 = none) ∧
    (s.ringUnit.shadowRest = none →
      (s.ringUnit.shadowMarked = false → s.request 2 = none) ∧
      (works → s.ringUnit.shadowMarked = true → s.request 2 = write .shadowWriter s.ringUnit.shadowAddress area) ∧
      s.atGrant .shadowWriter = s.modRingUnit fun u =>
        { u with
          shadowMarked := false
          shadowRest := if area.length ≤ room u.shadowAddress then none else some (area.drop (room u.shadowAddress)) }) ∧
    (∀ rest, s.ringUnit.shadowRest = some rest → works →
      s.request 2 = write .shadowWriter (s.ringUnit.shadowAddress + BitVec.ofNat 32 (32 - rest.length)) rest) ∧
    (s.writer.holding = [] ∨ s.writer.size ≤ (s.writer.producer - s.writer.released).toNat → s.request 3 = none) ∧
    (∀ c rest, works → s.writer.holding = c :: rest → (s.writer.producer - s.writer.released).toNat < s.writer.size →
      s.request 3 = some
        { owner := .completionWriter, length := 16, data := some (c.bytes s.writer.phase)
          address := s.writer.base + BitVec.ofNat 32 (16 * (s.writer.producer.toNat % s.writer.size)) }) ∧
    (∀ n : LineId,
      let l := s.line n
      let asks := s.request (Fin.ofNat 10 (4 + n.val))
      (l.engine ≠ .deliver → asks = none) ∧
      (∀ a remaining bytes, l.engine = .deliver → l.job = some (.payloadRead a remaining bytes) →
        (l.cutting = true → asks = none) ∧ (l.cutting = false → asks = read (.dataMover n) a remaining)) ∧
      (∀ a bytes next, l.engine = .deliver → l.job = some (.responseWrite a bytes next) →
        (l.cutting = true → asks = none) ∧ (l.cutting = false → asks = write (.dataMover n) a bytes)) ∧
      (∀ w status payload done stamp x id, l.engine = .deliver → l.job = some (.slotWrite w status payload done stamp) →
        l.exchange = some x → x.origin = .poll id →
        let p := s.poll id
        (w = .oddGeneration ∨ w = .evenGeneration → asks = write (.dataMover n) p.slotAddress (word p.generation.toNat)) ∧
        (w = .data →
          asks = write (.dataMover n) (p.slotAddress + BitVec.ofNat 32 (16 + done)) (payload.drop done)) ∧
        (w = .header →
          asks = write (.dataMover n) (p.slotAddress + 4#32)
            ([status.code, BitVec.ofNat 8 payload.length] ++ half p.skipped ++ word stamp.toNat ++ List.replicate 4 0#8)))) ∧
    (s.capture.writeQueue = [] ∨ s.capture.config = none → s.request 8 = none) ∧
    (∀ p rest g, works → s.capture.writeQueue = p :: rest → s.capture.config = some g →
      (∀ at' length, p.pad = some (at', length) → p.padWritten = false →
        s.request 8 = write .captureWriter (g.base + BitVec.ofNat 32 at') [BitVec.ofNat 8 length, 0#8, 0#8, 2#8]) ∧
      (p.pad = none ∨ p.padWritten = true →
        s.request 8 = write .captureWriter (g.base + BitVec.ofNat 32 (p.offset + p.written)) (p.bytes.drop p.written))) ∧
    ((∀ tag w, s.admin ≠ .writing tag w) → s.request 9 = none) ∧
    (∀ tag k a shown, s.admin = .writing tag (.readStation k a shown) →
      let st := s.station k
      s.request 9 = write .adminWriter a
        ([BitVec.ofNat 8 st.state.code.toNat, BitVec.ofNat 8 st.line.val, BitVec.ofNat 8 st.address.toNat,
          BitVec.ofNat 8 st.responseTimeout, BitVec.ofNat 8 st.retryLimit, BitVec.ofNat 8 st.threshold,
          BitVec.ofNat 8 st.reprobeInterval,
          BitVec.ofNat 8 (one st.captureEnable + 2 * one st.toggle + 4 * one st.resync + 8 * one st.eventPending +
            16 * one st.notice + 32 * one st.busy),
          BitVec.ofNat 8 st.failures, BitVec.ofNat 8 st.reprobe] ++ half st.good ++ half st.failed ++ List.replicate 18 0#8)) ∧
    (∀ tag n a shown, s.admin = .writing tag (.readLine n a shown) →
      let l := s.line n
      s.request 9 = write .adminWriter a
        ([BitVec.ofNat 8 ([Engine.off, .idle, .quiet, .lead, .send, .trail, .await, .receive, .backoff, .deliver,
            .completeWait].idxOf l.engine),
          BitVec.ofNat 8 (one l.stopping.isSome + 2 * one l.breakFlag + 4 * one l.eventJam + 8 * one l.eventBreak +
            16 * one l.eventOverrun + 32 * faulted n.succ),
          BitVec.ofNat 8 l.prefetched.length, BitVec.ofNat 8 l.followUp.length] ++ word l.counters.cycle.toNat ++
         half l.counters.overruns ++ half l.counters.jams ++ half l.counters.breaks ++ half l.counters.strayCharacters ++
         half l.counters.strayFrames ++ half l.counters.noiseCharacters ++ half l.counters.contentions ++
         [BitVec.ofNat 8 l.share] ++ List.replicate 9 0#8)) ∧
    (∀ tag a, s.admin = .writing tag (.definePoll a) →
      s.request 9 = write .adminWriter a.slotAddress ([0#8, 0#8, 0#8, 0#8, 0xFF#8] ++ List.replicate 11 0#8))

/-- No burst crosses a 64-byte-aligned boundary (R185): those of the shadow writer, the data movers and the capture writer are cut at it;
the others lie inside one block because of the alignments of R137, R168, R169 and R171. A ring is eligible exactly when the device is
RUNNING, the ring is ACTIVE, records wait in it, and its own condition holds (R143), and only an eligible ring is fetched. The ring-fetch
requester makes its request at the end of an event, when its burst has ended and a ring is eligible, and keeps it until its grant (R143,
R185; the moment, and that a request falls with its ring's eligibility, are the model's choices, log entry 37). -/
def Obligations.GrantedBurstStaysInOneBlock : Prop :=
  (∀ (s t : State) (b : Burst), s.hbi.burst = none → (∀ r, (s.ring r).base.toNat % 64 = 0) → s.writer.base.toNat % 64 = 0 →
     (s.hbi.device = .loading → s.hbi.contextAddress.toNat % 64 = 0) →
     (∀ tag k a shown, s.admin = .writing tag (.readStation k a shown) → a.toNat % 32 = 0) →
     (∀ tag n a shown, s.admin = .writing tag (.readLine n a shown) → a.toNat % 32 = 0) →
     (∀ tag a, s.admin = .writing tag (.definePoll a) → a.slotAddress.toNat % 16 = 0) →
     exec .busGrant s = .next t → t.hbi.burst = some b → b.length ≤ 64 ∧ b.address.toNat % 64 + b.length ≤ 64) ∧
  (∀ (s : State) (r : RingId),
     (s.ringToFetch = some r → s.ringEligible r = true) ∧
     (s.ringEligible r = true ↔
       s.hbi.device = .running ∧ (s.ring r).state = .active ∧ (s.ring r).accepted ≠ (s.ring r).consumer ∧
       (r = 0 → s.admin = .idle) ∧
       (∀ n : LineId, r = n.succ →
         (s.line n).engine ≠ .off ∧ (s.line n).stopping = none ∧ (s.line n).prefetched.length < 4 ∧ s.ringUnit.claim = none))) ∧
  ∀ s : State,
    ((∃ r, s.burstOf (.ringFetch r) = true) → s.askFetch = s.modRingUnit fun u => { u with requested := none }) ∧
    ((∀ r, s.burstOf (.ringFetch r) = false) → s.askFetch = s.modRingUnit fun u => { u with requested := s.ringToFetch }) ∧
    s.eventEnd = s.haltTest.askFetch

/-- The end of the context burst in LOADING (R137, R138, R178, R186): a bus error and an invalid block put the device in FAULTED with
their causes; a valid block loads the six rings, marks the shadow area, and takes the device to RUNNING, or to HALTED with its cause
latched when ENABLE was cleared during the load. -/
def Obligations.ContextLoadEnds : Prop :=
  ∀ (s : State) (error : Bool) (data : Vector Byte 64), s.burstOf .contextLoader = true → s.hbi.resetting = none →
    s.hbi.device = .loading → s.hbi.contextAddress.toNat % 64 = 0 →
    let t := s.clearBurst
    let byte := fun k : Nat => data.toList.getD k 0#8
    let base := fun r : Nat => byte (4 * r + 3) ++ byte (4 * r + 2) ++ byte (4 * r + 1) ++ byte (4 * r)
    let valid := (∀ r < 6, (base r).toNat % 64 = 0 ∧ 4 ≤ (byte (24 + r)).toNat ∧ (byte (24 + r)).toNat ≤ 12) ∧
      (base 8).toNat % 16 = 0 ∧ byte 30 = 0#8 ∧ byte 31 = 0#8 ∧ ∀ k, 36 ≤ k → k < 64 → byte k = 0#8
    (error = true → exec (.contextLoadEnd error data) s = .next (t.enterFaulted .contextBusError)) ∧
    (error = false → ¬valid → exec (.contextLoadEnd error data) s = .next (t.enterFaulted .contextInvalid)) ∧
    (error = false → valid →
      ∃ u, exec (.contextLoadEnd error data) s = .next u ∧
        (∀ r : RingId, u.ring r =
          { base := base r.val, size := 2 ^ (byte (24 + r.val)).toNat, state := .active, consumer := 0, accepted := 0 }) ∧
        u.ringUnit = { s.ringUnit with rings := u.ringUnit.rings, shadowAddress := base 8, shadowMarked := true } ∧
        u.writer = { s.writer with
          base := base 5, size := 2 ^ (byte 29).toNat, producer := 0, released := 0, phase := true, holding := [], pointer := 0 } ∧
        u.hbi = { t.hbi with
          device := if s.hbi.enable then .running else .halted
          attention := if s.hbi.enable then s.hbi.attention else s.hbi.attention ||| 0x20#7 } ∧
        u = { s with hbi := u.hbi, ringUnit := u.ringUnit, writer := u.writer })

/-- The eleven checks of R145 in the order of their numbers: the first that fails makes the record MALFORMED and its number is the detail
of the completion claimed at the take; a record that passes all is valid. -/
def Obligations.RequestChecksInOrder : Prop :=
  (∀ (data : Vector Byte 32) (check : Option Nat), malformedCheck data = check ↔
     (match check with
      | some k => 1 ≤ k ∧ k ≤ 11 ∧ RequestFails data k ∧ ∀ j, 1 ≤ j → j < k → ¬RequestFails data j
      | none => ∀ j, 1 ≤ j → j ≤ 11 → ¬RequestFails data j)) ∧
  ∀ (s : State) (n : LineId) (data : Vector Byte 32) (k : Nat), s.burstOf (.ringFetch n.succ) = true → s.hbi.resetting = none →
    s.hbi.device = .running → (s.line n).engine ≠ .off → (s.line n).stopping = none → s.ringUnit.fetchVoid = false →
    (s.line n).prefetched.length < 4 → s.writer.holding.length < 16 → malformedCheck data = some k →
    ∃ t c, exec (.recordFetchEnd false data) s = .next t ∧ t.writer.holding = s.writer.holding ++ [c] ∧
      c.status = .malformed ∧ c.detail = BitVec.ofNat 8 k ∧ t.line n = s.line n

/-- The end of a request ring's fetch (R146, R147): a valid record joins the tail of its line's prefetch queue, the consumer index rises
and the shadow area is marked, and the arbiter makes a choice; a MALFORMED record is claimed for by the Ring Unit, taken at the grant and
kept waiting with no index raised while the queue is full; a voided fetch takes nothing; a bus error faults the ring. The request is read
from the record at the offsets of R192: tag, the six flags, address, function, maximum segments, the two lengths, the payload area with
the payload address in its first four bytes, and the response address. The requester, free again, may ask for its next ring in the event
(R185, log entry 37). -/
def Obligations.RequestFetchEnds : Prop :=
  (∀ data : Vector Byte 32,
    let r := decodeRequest data
    let b := fun k : Nat => (data.toList.getD k 0#8).toNat
    r.tag.toNat = b 0 + 256 * b 1 + 65536 * b 2 + 16777216 * b 3 ∧
    [r.urgent, r.broadcast, r.bulkRead, r.bulkWrite, r.inlinePayload, r.force] = (List.range 6).map (fun i => (b 4).testBit i) ∧
    r.address.toNat = b 5 % 128 ∧ r.function.toNat = b 6 ∧ r.maxSegments = b 7 ∧ r.payloadLength = b 8 + 256 * b 9 ∧
    r.responseCapacity = b 10 + 256 * b 11 ∧ r.payloadArea = (List.range 16).map (fun j => data.toList.getD (12 + j) 0#8) ∧
    r.payloadAddress.toNat = b 12 + 256 * b 13 + 65536 * b 14 + 16777216 * b 15 ∧
    r.responseAddress.toNat = b 28 + 256 * b 29 + 65536 * b 30 + 16777216 * b 31) ∧
  ∀ (s : State) (n : LineId) (error : Bool) (data : Vector Byte 32), s.burstOf (.ringFetch n.succ) = true →
    s.hbi.resetting = none → s.hbi.device ≠ .faulted →
    let t := s.clearBurst
    let r := decodeRequest data
    (error = true → exec (.recordFetchEnd error data) s = .next (t.faultRing n.succ .fetchError).askFetch) ∧
    (error = false → (s.hbi.device ≠ .running ∨ (s.line n).engine = .off ∨ (s.line n).stopping.isSome ∨ s.ringUnit.fetchVoid = true) →
      exec (.recordFetchEnd error data) s = .next t.askFetch) ∧
    (error = false → s.hbi.device = .running → (s.line n).engine ≠ .off → (s.line n).stopping = none → s.ringUnit.fetchVoid = false →
      (s.line n).prefetched.length < 4 →
      (malformedCheck data = none →
        exec (.recordFetchEnd error data) s =
          .next ((((t.modLine n fun l => { l with prefetched := l.prefetched ++ [r] }).modRing n.succ fun g =>
            { g with consumer := g.consumer + 1 }).modRingUnit fun u => { u with shadowMarked := true }).arbiterChoice n).askFetch) ∧
      ∀ k, malformedCheck data = some k →
        let c : Completion :=
          { tag := r.tag, status := .malformed, detail := BitVec.ofNat 8 k, kind := .request, stationState := 7,
            origin := BitVec.ofNat 8 n.val, attempts := 0, segments := 0, delivered := 0, residue := 0,
            stamp := (s.line n).counters.cycle.setWidth 16 }
        (s.writer.holding.length < 16 →
          exec (.recordFetchEnd error data) s =
            .next (((t.modWriter fun w => { w with holding := w.holding ++ [c], pointer := 6 }).modRing n.succ fun g =>
              { g with consumer := g.consumer + 1 }).modRingUnit fun u => { u with shadowMarked := true, claim := none }).askFetch) ∧
        (s.writer.holding.length = 16 →
          exec (.recordFetchEnd error data) s = .next (t.modRingUnit fun u => { u with claim := some (n, c) }).askFetch))

/-- The end of the admin ring's fetch (R147, R148): the record is handed to the Admin Processor as its current command, the consumer index
rises and the shadow area is marked; a voided fetch takes nothing; a bus error faults the ring. The record holds the tag at offset 0, the
command code at offset 2 and the arguments from offset 3 to 31, multi-byte ones little-endian (R193). The row of the record's code is the
same event (the model's reading, log entry 8). The requester, free again, may ask for its next ring in the event (R185, log entry 37). -/
def Obligations.AdminFetchEnds : Prop :=
  (∀ data : Vector Byte 32,
    let b := fun k : Nat => (data.toList.getD k 0#8).toNat
    let body := adminBody data
    (adminTag data).toNat = b 0 + 256 * b 1 ∧ (adminCode data).toNat = b 2 ∧ (∀ k : Fin 29, (body[k]).toNat = b (3 + k.val)) ∧
    (∀ k, 3 ≤ k → k ≤ 31 → (argByte body k).toNat = b k ∧ argNat body k = b k) ∧
    (∀ k, 3 ≤ k → k ≤ 30 → (argHalf body k).toNat = b k + 256 * b (k + 1)) ∧
    (∀ k, 3 ≤ k → k ≤ 28 →
      (argWord body k).toNat = b k + 256 * b (k + 1) + 65536 * b (k + 2) + 16777216 * b (k + 3))) ∧
  ∀ (s : State) (data : Vector Byte 32), s.burstOf (.ringFetch 0) = true → s.hbi.resetting = none →
    (s.hbi.device ≠ .faulted →
      exec (.recordFetchEnd true data) s = .next (s.clearBurst.faultRing 0 .fetchError).askFetch) ∧
    (s.hbi.device = .faulted → exec (.recordFetchEnd false data) s = .next s.clearBurst) ∧
    (s.hbi.device ≠ .faulted → s.hbi.device ≠ .running ∨ s.admin ≠ .idle ∨ s.ringUnit.fetchVoid = true →
      exec (.recordFetchEnd false data) s = .next s.clearBurst.askFetch) ∧
    (s.hbi.device = .running → s.admin = .idle → s.ringUnit.fetchVoid = false →
      exec (.recordFetchEnd false data) s = .next ((s.clearBurst.modRing 0 fun g =>
        { g with consumer := g.consumer + 1 }).markShadow.runAdmin (adminTag data) (adminCode data) (adminBody data)).askFetch) ∧
    (adminCode data = 0x01#8 → exec (.recordFetchEnd false data) s = exec (.configureLine (adminTag data) (adminBody data)) s) ∧
    (adminCode data = 0x02#8 → exec (.recordFetchEnd false data) s = exec (.startLine (adminTag data) (adminBody data)) s) ∧
    (adminCode data = 0x03#8 → exec (.recordFetchEnd false data) s = exec (.stopLine (adminTag data) (adminBody data)) s) ∧
    (adminCode data = 0x04#8 → exec (.recordFetchEnd false data) s = exec (.defineStation (adminTag data) (adminBody data)) s) ∧
    (adminCode data = 0x05#8 → exec (.recordFetchEnd false data) s = exec (.modifyStation (adminTag data) (adminBody data)) s) ∧
    (adminCode data = 0x06#8 → exec (.recordFetchEnd false data) s = exec (.removeStation (adminTag data) (adminBody data)) s) ∧
    (adminCode data = 0x07#8 → exec (.recordFetchEnd false data) s = exec (.holdStation (adminTag data) (adminBody data)) s) ∧
    (adminCode data = 0x08#8 → exec (.recordFetchEnd false data) s = exec (.releaseStation (adminTag data) (adminBody data)) s) ∧
    (adminCode data = 0x09#8 → exec (.recordFetchEnd false data) s = exec (.readStation (adminTag data) (adminBody data)) s) ∧
    (adminCode data = 0x0A#8 → exec (.recordFetchEnd false data) s = exec (.definePoll (adminTag data) (adminBody data)) s) ∧
    (adminCode data = 0x0B#8 → exec (.recordFetchEnd false data) s = exec (.deletePoll (adminTag data) (adminBody data)) s) ∧
    (adminCode data = 0x0C#8 → exec (.recordFetchEnd false data) s = exec (.readLine (adminTag data) (adminBody data)) s) ∧
    (adminCode data = 0x0D#8 → exec (.recordFetchEnd false data) s = exec (.setCapture (adminTag data) (adminBody data)) s) ∧
    (adminCode data = 0x0E#8 → exec (.recordFetchEnd false data) s = exec (.restartRing (adminTag data) (adminBody data)) s) ∧
    (unknownCode (adminCode data) = true →
      exec (.recordFetchEnd false data) s = exec (.badCommand (adminTag data) (adminCode data) (adminBody data)) s)

/-- A shadow write that ends without error only frees the bus (R142). A shadow or completion write that ends with a bus error puts the
device in FAULTED (R152, R186): the cause is recorded, DEVICE_FAULT is latched, the holdoff timer stops (R184), the entry stays in the
holding queue, and the indices, the phase and the rings stay as they were. At every entry to FAULTED (R187) each line's prefetched
requests and follow-up entries are gone and its timer stops (R95, R119); its engine goes OFF at once, or at the end of what it sends or of
its burst (R43); marks clear; the Capture Unit discards its frames and reservations and marks a loss (R134); the Admin Processor claims
nothing, a waiting command applies when its condition holds (R159). An exchange ended so takes step 1 with ABORTED unless it had taken it,
and clears the busy flag; a data mover's burst that ends in FAULTED ends its exchange. The other bursts that end in FAULTED only free the
bus (the model's choice, log entry 27). -/
def Obligations.SeriousBusErrorFaultsTheDevice : Prop :=
  (∀ s : State, s.hbi.resetting = none → s.hbi.device ≠ .faulted →
    (s.burstOf .shadowWriter = true → exec (.shadowWriteEnd false) s = .next (s.modHbi fun h => { h with burst := none })) ∧
    (s.burstOf .shadowWriter = true →
      ∃ t, exec (.shadowWriteEnd true) s = .next t ∧ t.hbi.device = .faulted ∧ t.hbi.faultCause = .shadowBusError ∧
        t.hbi.attention[6] = true ∧ (∀ i : Fin 7, s.hbi.attention[i] = true → t.hbi.attention[i] = true) ∧
        t.ringUnit.rings = s.ringUnit.rings ∧ t.writer.holdoffTimer = none ∧ t.writer.holding = s.writer.holding ∧
        t.writer.producer = s.writer.producer ∧ t.writer.released = s.writer.released ∧ t.writer.phase = s.writer.phase) ∧
    (s.burstOf .completionWriter = true →
      ∃ t, exec (.completionWriteEnd true) s = .next t ∧ t.hbi.device = .faulted ∧ t.hbi.faultCause = .completionBusError ∧
        t.hbi.attention[6] = true ∧ (∀ i : Fin 7, s.hbi.attention[i] = true → t.hbi.attention[i] = true) ∧
        t.ringUnit.rings = s.ringUnit.rings ∧ t.writer.holdoffTimer = none ∧ t.writer.holding = s.writer.holding ∧
        t.writer.producer = s.writer.producer ∧ t.writer.released = s.writer.released ∧ t.writer.phase = s.writer.phase) ∧
    (s.burstOf .shadowWriter = true →
      exec (.shadowWriteEnd true) s = .next (s.clearBurst.enterFaulted .shadowBusError)) ∧
    (s.burstOf .completionWriter = true →
      exec (.completionWriteEnd true) s = .next (s.clearBurst.enterFaulted .completionBusError))) ∧
  (∀ (s : State) (cause : FaultCause), s.hbi.device ≠ .faulted →
    let t := s.enterFaulted cause
    let atOnce := fun n : LineId =>
      (s.line n).engine ∈ [Engine.idle, .quiet, .backoff, .lead, .await, .receive, .completeWait] ∨
        ((s.line n).engine = .deliver ∧ s.burstOf (.dataMover n) = false)
    let discarded : Capture :=
      { s.capture with
        writeQueue := [], staging := Vector.replicate 4 none, reserved := 0, placeOffset := s.capture.writeOffset
        placeWrapped := false, lost := true
        unreleased := match s.capture.config with
          | some g => if g.mode = .hold then s.capture.unreleased - (s.capture.writeQueue.map Placed.consumed).sum
              else s.capture.unreleased
          | none => s.capture.unreleased }
    t.hbi = { s.hbi with device := .faulted, faultCause := cause, attention := s.hbi.attention ||| 0x40#7 } ∧
    t.ringUnit = { s.ringUnit with claim := none, requested := none } ∧
    t.writer = { s.writer with holdoffTimer := none } ∧ t.pending = s.pending ∧
    (∀ n : LineId,
      (t.line n).prefetched = [] ∧ (t.line n).followUp = [] ∧ (t.line n).cycleTimer = .stopped ∧
        (t.line n).config = (s.line n).config ∧ (t.line n).counters = (s.line n).counters ∧
        (t.line n).breakFlag = (s.line n).breakFlag ∧ (t.line n).eventJam = (s.line n).eventJam ∧
        (t.line n).eventBreak = (s.line n).eventBreak ∧ (t.line n).eventOverrun = (s.line n).eventOverrun ∧
        ((s.line n).engine = .off → (t.line n).engine = .off) ∧
        (atOnce n →
          (t.line n).engine = .off ∧ (t.line n).exchange = none ∧ (t.line n).claim = none ∧ (t.line n).job = none ∧
            (t.line n).stopping = none ∧ (t.line n).rxPhase = .notForming ∧ (t.line n).timers = .stopped) ∧
        ((s.line n).engine = .send ∨ (s.line n).engine = .trail ∨
            ((s.line n).engine = .deliver ∧ s.burstOf (.dataMover n) = true) →
          (t.line n).engine = (s.line n).engine ∧ (t.line n).exchange = (s.line n).exchange ∧ (t.line n).cutting = true ∧
            (t.line n).job = (s.line n).job ∧ (t.line n).txCharacter = (s.line n).txCharacter ∧
            (t.line n).timers = (s.line n).timers ∧ (t.line n).stopping = (s.line n).stopping)) ∧
    (∀ k : SlotId, (∀ tag, s.admin ≠ .deferred tag (.holdStation k) ∧ s.admin ≠ .deferred tag (.removeStation k)) →
      ((∀ n x, (s.line n).exchange = some x → x.station ≠ some k) → t.station k = s.station k) ∧
      (∀ n x, atOnce n → (s.line n).exchange = some x → x.station = some k →
        (∀ m y, m ≠ n → (s.line m).exchange = some y → y.station ≠ some k) →
        t.station k =
          { s.station k with busy := false, resync := (s.station k).resync || (x.frameSent && x.status.isNone) })) ∧
    (∀ id : PollId, (∀ n x, (s.line n).exchange = some x → x.origin ≠ .poll id) →
      ((∃ n, id ∈ (s.line n).pollList) →
        t.poll id = { s.poll id with state := if (s.poll id).state = .due then .idle else (s.poll id).state, dueAgain := false }) ∧
      ((∀ n, id ∉ (s.line n).pollList) → t.poll id = s.poll id)) ∧
    ((∀ tag g, s.admin ≠ .deferred tag (.setCapture g)) → t.capture = discarded) ∧
    (∀ tag g, s.admin = .deferred tag (.setCapture g) →
      t.admin = .idle ∧ t.capture =
        { discarded with
          config := g, writeOffset := 0, placeOffset := 0, releaseOffset := 0, unreleased := 0, lapCount := 0
          paused := false, fault := false, badRelease := false, reconfig := false }) ∧
    (s.admin = .idle ∨ (∃ c, s.admin = .claiming c) → t.admin = .idle) ∧
    (∀ tag w, s.admin = .writing tag w → t.admin = if s.burstOf .adminWriter then s.admin else .idle) ∧
    (∀ tag n, s.admin = .deferred tag (.stopLine n) → t.admin = if (t.line n).engine = .off then .idle else s.admin) ∧
    (∀ tag k, s.admin = .deferred tag (.holdStation k) ∨ s.admin = .deferred tag (.removeStation k) →
      t.admin = if (t.station k).busy then s.admin else .idle) ∧
    (∀ tag id, s.admin = .deferred tag (.deletePoll id) → t.admin = if (t.poll id).state = .free then .idle else s.admin)) ∧
  (∀ (s : State) (n : LineId), s.hbi.device = .faulted →
    let off := fun l : Line =>
      { l with
        engine := .off, stopping := none, rxPhase := .notForming, exchange := none, frame := none, claim := none, job := none
        cutting := false, resend := false, counted := false, sentCount := 0, mismatch := false, timers := .stopped, received := []
        candidate := [], txCharacter := none, echoPending := none }
    ((s.line n).exchange = none → s.faultEnd n = (s.modLine n off).deferredApply) ∧
    (∀ x r, (s.line n).exchange = some x → x.station = none → x.origin = .request r →
      s.faultEnd n = (s.modLine n off).deferredApply) ∧
    (∀ x k, (s.line n).exchange = some x → x.station = some k →
      let t := s.modStation k fun st => { st with busy := false, resync := st.resync || (x.frameSent && x.status.isNone) }
      (∀ r, x.origin = .request r → s.faultEnd n = (t.modLine n off).deferredApply) ∧
      (∀ j, x.origin = .followUp j → s.faultEnd n = (t.modLine n off).deferredApply) ∧
      (∀ id, x.origin = .poll id → (s.poll id).state = .inFlight →
        s.faultEnd n =
          ((t.modPoll id fun p => { p with state := if p.dueAgain then .due else .idle, dueAgain := false }).modLine n
            off).deferredApply) ∧
      (∀ id, x.origin = .poll id → (s.poll id).state = .deleting →
        s.faultEnd n =
          (((t.modLine (s.poll id).line fun m => { m with pollList := m.pollList.filter (· != id) }).modPoll id
            fun _ => Poll.free).modLine n off).deferredApply))) ∧
  ∀ (s : State) (error : Bool), s.hbi.resetting = none → s.hbi.device = .faulted →
    let freed := s.modHbi fun h => { h with burst := none }
    (∀ n data, s.burstOf (.dataMover n) = true → exec (.dataMoverBurstEnd n error data) s = .next (freed.faultEnd n)) ∧
    (s.burstOf .shadowWriter = true → exec (.shadowWriteEnd error) s = .next freed) ∧
    (s.burstOf .completionWriter = true → exec (.completionWriteEnd error) s = .next freed) ∧
    (s.burstOf .captureWriter = true → exec (.captureWriteEnd error) s = .next freed) ∧
    (∀ r data, s.burstOf (.ringFetch r) = true → exec (.recordFetchEnd error data) s = .next freed)

/-- A completion record has been written (R152): the entry leaves the holding queue (others may join behind it), the producer index rises
by 1, the phase flips when the new index is a multiple of the ring size, and the completion is counted for moderation (R184): the count
rises, saturating at 255, the holdoff timer starts when it is stopped and the holdoff is above 0, and COMPLETION is latched when the
threshold is 0 or reached, and not otherwise. The freed entry is granted in the event to the first waiting claimant (R151). One case
apart: a cycle start whose OVERRUN report is due comes at the same moment (it is the next command of the queue), is taken first, and its
report takes the entry, so the claimant goes on waiting (R98); which of the two is first, is a free value (the model's choice, log entry
13). The timer's expiry latches COMPLETION and stops it; with it stopped nothing expires (the model's choice, log entry 1). Each of these
events ends with the test of the halt condition (R180) and the asking of the ring-fetch requester (R143; its moment is the model's choice,
log entry 37). -/
def Obligations.CompletionWriteEnds : Prop :=
  (∀ (s : State) (c : Completion) (rest : List Completion), s.burstOf .completionWriter = true → s.hbi.resetting = none →
     s.hbi.device ≠ .faulted → s.writer.holding = c :: rest →
     ∃ t joined, exec (.completionWriteEnd false) s = .next t ∧ t.writer.holding = rest ++ joined ∧
       t.writer.producer = s.writer.producer + 1 ∧ t.writer.released = s.writer.released ∧
       t.writer.base = s.writer.base ∧ t.writer.size = s.writer.size ∧
       t.writer.phase = (if (s.writer.producer + 1).toNat % s.writer.size = 0 then !s.writer.phase else s.writer.phase) ∧
       t.writer.moderationCount = (if s.writer.moderationCount < 255 then s.writer.moderationCount + 1 else 255) ∧
       t.writer.holdoffTimer = (match s.writer.holdoffTimer with
         | some k => some k
         | none => if s.writer.holdoff = 0 then none else some s.writer.holdoff.toNat) ∧
       (s.writer.threshold = 0 ∨ s.writer.threshold.toNat ≤ t.writer.moderationCount → t.hbi.attention[0] = true) ∧
       (∀ i : Fin 7, s.hbi.attention[i] = true → t.hbi.attention[i] = true)) ∧
  (∀ (s : State) (c : Completion) (rest : List Completion), s.burstOf .completionWriter = true → s.hbi.resetting = none →
     s.hbi.device ≠ .faulted → s.writer.holding = c :: rest → rest.length < 16 →
     let q := { s with hbi := { s.hbi with burst := none }, writer := { s.writer with holding := rest } }
     let written := fun g : State =>
       let count := if g.writer.moderationCount < 255 then g.writer.moderationCount + 1 else 255
       ({ g with
          writer := { g.writer with
            producer := g.writer.producer + 1
            phase := if (g.writer.producer + 1).toNat % g.writer.size = 0 then !g.writer.phase else g.writer.phase
            moderationCount := count
            holdoffTimer := match g.writer.holdoffTimer with
              | some k => some k
              | none => if g.writer.holdoff = 0 then none else some g.writer.holdoff.toNat }
          hbi := { g.hbi with
            attention := if g.writer.threshold = 0 ∨ g.writer.threshold.toNat ≤ count then g.hbi.attention ||| 0x01#7
              else g.hbi.attention } } : State).eventEnd
     let run := exec (.completionWriteEnd false) s
     ((∀ k, q.claimOf k = none) → run = .next (written q)) ∧
     (∀ (k j : Fin 7) (w : Completion), k = s.writer.pointer + j → q.claimOf k = some w →
       (∀ i : Fin 7, i < j → q.claimOf (s.writer.pointer + i) = none) →
       let granted := fun (free : Nat) (g : State) =>
         let u := { q with free := free, writer := { q.writer with holding := rest ++ [w], pointer := k + 1 } }
         (∀ n : LineId, k.val = n.val → g = u.enterIdle n) ∧ (k = 4 → g = u.setAdmin .idle) ∧
         (k = 5 → ∀ n p, s.ringUnit.claim = some (n, p) →
           g = (u.modRingUnit fun r => { r with claim := none, shadowMarked := true }).modRing n.succ fun r =>
             { r with consumer := r.consumer + 1 }) ∧
         (k = 6 → ∀ m : SlotId, q.nextNotice = some m →
           g = (u.modStation m fun st => { st with notice := false }).modWriter fun v => { v with noticeNext := m + 1 })
       let comes := ∃ n next p, s.pending = .cycleStart n :: next ∧ (s.line n).cycleTimer = .running p ∧
         ∃ id ∈ (s.line n).pollList, ((s.poll id).mode = .always ∨ (s.poll id).mode = .onError) ∧
           ((s.poll id).state = .due ∨ ((s.poll id).state = .inFlight ∧ (s.poll id).dueAgain = true ∧
             ((s.line n).counters.cycle + 1).toNat % (s.poll id).divisor = (s.poll id).phase))
       (¬comes → ∃ g, granted s.free g ∧ run = .next (written g)) ∧
       (comes →
         (∃ g, granted (s.free + 1) g ∧ run = .next (written g)) ∨ run = .next (written { q with free := s.free + 1 })))) ∧
  (∀ s : State,
     (∀ k, s.writer.holdoffTimer = some k →
       ∃ t, exec .moderationHoldoffExpiry s = .next t ∧
         (∀ i : Fin 7, t.hbi.attention[i] = (s.hbi.attention[i] || i.val == 0)) ∧
         t = (s.modWriter fun w => { w with holdoffTimer := none }).modHbi fun h => { h with attention := t.hbi.attention }) ∧
     (s.writer.holdoffTimer = none → exec .moderationHoldoffExpiry s = .next s))

/-- A free holding-queue entry is granted to the first waiting claimant counting from the round-robin pointer, which moves past it (R151):
a line's completion joins and its engine goes to IDLE (R35); the Admin Processor's joins and it is IDLE; a MALFORMED record is taken
(R146); a notice is posted and its flag cleared (R81), of the first flagged slot from the scanner's next one on, wrapping, with the fields
R81 gives: tag the address, detail the failures, origin the slot, the state and the line's cycle number at posting. No claim waiting, a
full queue, or FAULTED (R154): nothing is granted (the model's choice, log entry 1). Each of these events ends with the test of the halt
condition (R180) and the asking of the ring-fetch requester (R143; its moment is the model's choice, log entry 37). -/
def Obligations.ClaimIsGrantedRoundRobin : Prop :=
  ∀ s : State,
    (16 ≤ s.writer.holding.length ∨ s.hbi.device = .faulted ∨ (∀ k, s.claimOf k = none) → exec .claimGrant s = .next s.eventEnd) ∧
    (s.writer.holding.length < 16 → s.hbi.device ≠ .faulted →
      ∀ (k j : Fin 7) (c : Completion), k = s.writer.pointer + j → s.claimOf k = some c →
        (∀ i : Fin 7, i < j → s.claimOf (s.writer.pointer + i) = none) →
        let t := s.modWriter fun w => { w with holding := w.holding ++ [c], pointer := k + 1 }
        (∀ n : LineId, k.val = n.val → exec .claimGrant s = .next (t.enterIdle n).eventEnd) ∧
        (k = 4 → exec .claimGrant s = .next (t.setAdmin .idle).eventEnd) ∧
        (k = 5 → ∀ n q, s.ringUnit.claim = some (n, q) →
          exec .claimGrant s = .next ((t.modRingUnit fun u => { u with claim := none, shadowMarked := true }).modRing n.succ fun g =>
            { g with consumer := g.consumer + 1 }).eventEnd) ∧
        (k = 6 → ∀ m : SlotId, s.nextNotice = some m →
          exec .claimGrant s = .next ((t.modStation m fun st => { st with notice := false }).modWriter fun w =>
            { w with noticeNext := m + 1 }).eventEnd)) ∧
    (∀ j : SlotId, (s.station (s.writer.noticeNext + j)).notice = true →
      (∀ i : SlotId, i < j → (s.station (s.writer.noticeNext + i)).notice = false) → s.nextNotice = some (s.writer.noticeNext + j)) ∧
    (∀ m : SlotId, s.nextNotice = some m →
      s.claimOf 6 = some
        { tag := BitVec.ofNat 32 (s.station m).address.toNat, status := .stationNotice, detail := BitVec.ofNat 8 (s.station m).failures
          kind := .notice, stationState := (s.station m).state.code, origin := BitVec.ofNat 8 m.val, attempts := 0, segments := 0
          delivered := 0, residue := 0, stamp := (s.line (s.station m).line).counters.cycle.setWidth 16 })

/-! ### The capture writer and the data movers -/

/-- A staged event frame is placed while the unit is not faulted (R128, R129): 8 + L bytes rounded up to a multiple of 4, at the place
offset when they fit in the tail and otherwise at offset 0 behind a PAD of the tail; the lost flag clears and the reservation is returned.
Its bytes are those of R197, LOST when the lost flag was set or, in LOOP mode, at offset 0 after a wrap (how an exact wrap is remembered
is the model's choice, log entry 25). A capture burst ends (R130, R133): after a PAD's header the record follows; with its last burst the
record leaves the queue, the write offset moves to its end, its staging empties, CAPTURE_DATA is latched, and a wrap raises the lap count
and in LOOP mode latches CAPTURE_EVENT; a bus error faults the unit, discards the write queue with its stagings, and keeps the write
offset. A deferred SET CAPTURE may then apply (R135). A hand-over with no staged frame returns the reservation (R124); one while the unit
is faulted or disabled empties the staging, sets the lost flag and returns the reservation (R124, R128). A reservation is 144 bytes, made
and returned with a pause evaluation (R122, R124, R126), and the table of R122 says when a fetch is admitted. Each of these events ends
with the test of the halt condition (R180) and the asking of the ring-fetch requester (R143; its moment is the model's choice, log entry
37). -/
def Obligations.CaptureRecordIsPlacedAndWritten : Prop :=
  (∀ (s : State) (n : LineId) (f : Staged) (g : CaptureConfig), s.capture.staging[n] = some f → s.capture.config = some g →
     s.capture.fault = false → 1 ≤ f.payload.length → f.payload.length ≤ 64 →
     let len := (f.payload.length + 11) / 4 * 4
     let tail := g.size - s.capture.placeOffset
     let fits := len ≤ tail
     ∃ (u : State) (record : Placed), s.handOver n true = u.returnReservation ∧ u = { s with capture := u.capture } ∧
       record.bytes.length = len ∧ record.line = n ∧ record.written = 0 ∧ record.padWritten = false ∧
       (fits → record.pad = none ∧ record.offset = s.capture.placeOffset) ∧
       (¬fits → record.pad = some (s.capture.placeOffset, tail) ∧ record.offset = 0) ∧
       (g.mode = .hold → record.bytes = captureRecord n f s.capture.lost ((s.line n).counters.cycle.setWidth 16)) ∧
       (g.mode = .loop → record.bytes =
         captureRecord n f (s.capture.lost || decide (¬fits) || (s.capture.placeWrapped && record.offset == 0))
           ((s.line n).counters.cycle.setWidth 16)) ∧
       u.capture.placeWrapped = decide (record.offset + len = g.size) ∧
       (∀ (lost : Bool) (stamp : Half), captureRecord n f lost stamp =
         [BitVec.ofNat 8 f.payload.length, BitVec.ofNat 8 n.val, BitVec.ofNat 8 f.address.toNat, if lost then 1#8 else 0#8,
          BitVec.ofNat 8 stamp.toNat, BitVec.ofNat 8 (stamp.toNat / 256), 0#8, 0#8] ++ f.payload ++
           List.replicate (len - 8 - f.payload.length) 0#8) ∧
       u.capture =
         { s.capture with
           writeQueue := s.capture.writeQueue ++ [record], lost := false, placeWrapped := u.capture.placeWrapped
           placeOffset := if record.offset + len = g.size then 0 else record.offset + len
           unreleased := if g.mode = .hold then s.capture.unreleased + len + (if fits then 0 else tail) else s.capture.unreleased }) ∧
  (∀ (s : State) (p : Placed) (rest : List Placed) (g : CaptureConfig), s.burstOf .captureWriter = true → s.hbi.resetting = none →
     s.hbi.device ≠ .faulted → s.capture.writeQueue = p :: rest → s.capture.config = some g → p.written < p.bytes.length →
     let t := s.clearBurst
     let last := p.offset + p.bytes.length
     let wrap := p.pad.isSome = true ∨ last = g.size
     (p.pad.isSome = true → p.padWritten = false →
       exec (.captureWriteEnd false) s =
         .next (t.modCapture fun c => { c with writeQueue := { p with padWritten := true } :: rest }).deferredApply.eventEnd) ∧
     (p.pad = none ∨ p.padWritten = true →
       (p.written + s.burstLength < p.bytes.length →
         exec (.captureWriteEnd false) s =
           .next (t.modCapture fun c =>
             { c with writeQueue := { p with written := p.written + s.burstLength } :: rest }).deferredApply.eventEnd) ∧
       (p.bytes.length ≤ p.written + s.burstLength →
         ∃ u : State, exec (.captureWriteEnd false) s = .next u.deferredApply.eventEnd ∧
           u.capture =
             { s.capture with
               writeQueue := rest
               writeOffset := if last = g.size then 0 else last
               staging := s.capture.staging.set p.line none
               lapCount := u.capture.lapCount } ∧
           (wrap → u.capture.lapCount = s.capture.lapCount + 1) ∧ (¬wrap → u.capture.lapCount = s.capture.lapCount) ∧
           (∀ i : Fin 7, u.hbi.attention[i] = (s.hbi.attention[i] || i.val == 1 ||
             (i.val == 2 && (p.pad.isSome || last == g.size) && decide (g.mode = .loop)))) ∧
           u = { t with capture := u.capture, hbi := { t.hbi with attention := u.hbi.attention } })) ∧
     ∃ u : State, exec (.captureWriteEnd true) s = .next u.deferredApply.eventEnd ∧
       u.capture =
         { s.capture with
           fault := true, lost := true, writeQueue := [], placeOffset := s.capture.writeOffset, placeWrapped := false
           staging := s.capture.writeQueue.foldl (fun st (q : Placed) => st.set q.line none) s.capture.staging
           unreleased := if g.mode = .hold then s.capture.unreleased - (s.capture.writeQueue.map Placed.consumed).sum
             else s.capture.unreleased } ∧
       (∀ i : Fin 7, u.hbi.attention[i] = (s.hbi.attention[i] || i.val == 2)) ∧
       u = { t with capture := u.capture, hbi := { t.hbi with attention := u.hbi.attention } }) ∧
  ∀ (s : State) (n : LineId),
    (∀ staged, staged = false ∨ s.capture.staging[n] = none → s.handOver n staged = s.returnReservation) ∧
    (s.capture.staging[n] ≠ none → s.capture.fault = true ∨ s.capture.config = none →
      s.handOver n true =
        (s.modCapture fun c => { c with staging := c.staging.set n none, lost := true }).returnReservation) ∧
    s.returnReservation = (s.modCapture fun c => { c with reserved := c.reserved - 144 }).evaluatePause ∧
    s.reserve = (s.modCapture fun c => { c with reserved := c.reserved + 144 }).evaluatePause ∧
    (s.capture.config = none ∨ s.capture.fault = true ∨ s.capture.reconfig = true → s.capture.admits = false) ∧
    (∀ g, s.capture.config = some g → s.capture.fault = false → s.capture.reconfig = false →
      (g.mode = .hold →
        (s.capture.admits = true ↔
          s.capture.paused = false ∧ 144 ≤ g.size - s.capture.unreleased - s.capture.reserved)) ∧
      (g.mode = .loop → s.capture.admits = true))

/-- A burst of a line's data mover ends (R34, R57, R58, R61 to R63). Payload read: the bytes read are kept, the rest is read on, and with
the last of them the frame is prepared and the engine goes to QUIET. Response write: its bytes count as delivered and leave the residue;
the rest is written on; after the last the exchange ends as it was decided, or a bulk read prepares its continuation under a new budget.
Either: a bus error ends the exchange BUS_ERROR, and a cut one ends ABORTED (R41), also when its burst ends with a bus error (the model's
choice, log entry 14). Each of these events ends with the test of the halt condition (R180) and the asking of the ring-fetch requester
(R143; its moment is the model's choice, log entry 37). -/
def Obligations.DataMoverBurstEnds : Prop :=
  (∀ (s : State) (n : LineId) (error : Bool) (data : Vector Byte 64) (address : Word) (remaining : Nat) (bytes : List Byte) (x : Exchange),
     s.burstOf (.dataMover n) = true → s.hbi.resetting = none → s.hbi.device ≠ .faulted →
     (s.line n).job = some (.payloadRead address remaining bytes) → (s.line n).exchange = some x → s.burstLength ≤ 64 →
     let t := s.clearBurst
     let read := data.toList.take s.burstLength
     ((s.line n).cutting = true → exec (.dataMoverBurstEnd n error data) s = .next (t.endExchange n .aborted 0).eventEnd) ∧
     ((s.line n).cutting = false →
       (error = true → exec (.dataMoverBurstEnd n error data) s = .next (t.endExchange n .busError 0).eventEnd) ∧
       (error = false → s.burstLength < remaining →
         exec (.dataMoverBurstEnd n error data) s = .next (t.modLine n fun l =>
           { l with job := some (.payloadRead (address + BitVec.ofNat 32 s.burstLength) (remaining - s.burstLength)
             (bytes ++ read)) }).eventEnd) ∧
       (error = false → remaining ≤ s.burstLength →
         exec (.dataMoverBurstEnd n error data) s = .next (t.modLine n fun l =>
           { l.newAttempt with
             job := none
             frame := some { sync := false, toggle := s.requestToggle x, more := x.more,
                             function := x.function.getD 0#8, payload := bytes ++ read } }).eventEnd))) ∧
  (∀ (s : State) (n : LineId) (data : Vector Byte 64) (address : Word) (bytes : List Byte) (next : AfterWrite) (x : Exchange),
     s.burstOf (.dataMover n) = true → s.hbi.resetting = none → s.hbi.device ≠ .faulted →
     (s.line n).job = some (.responseWrite address bytes next) → (s.line n).exchange = some x →
     let t := s.clearBurst
     let y := { x with delivered := x.delivered + s.burstLength, residue := x.residue - s.burstLength }
     let u := t.modLine n fun l => { l with exchange := some y }
     ((s.line n).cutting = true → exec (.dataMoverBurstEnd n true data) s = .next (t.endExchange n .aborted 0).eventEnd ∧
       exec (.dataMoverBurstEnd n false data) s = .next (u.endExchange n .aborted 0).eventEnd) ∧
     ((s.line n).cutting = false →
       exec (.dataMoverBurstEnd n true data) s = .next (t.endExchange n .busError 0).eventEnd ∧
       (s.burstLength < bytes.length →
         exec (.dataMoverBurstEnd n false data) s = .next (u.modLine n fun l =>
           { l with job := some (.responseWrite (address + BitVec.ofNat 32 s.burstLength) (bytes.drop s.burstLength) next) }).eventEnd) ∧
       (bytes.length ≤ s.burstLength →
         (∀ status, next = .finish status →
           exec (.dataMoverBurstEnd n false data) s = .next (u.endExchange n status 0).eventEnd) ∧
         (next = .continueRead →
           exec (.dataMoverBurstEnd n false data) s = .next ((u.modLine n fun l =>
             { l with exchange := some { y with attemptsUsed := 0, firstFailure := none } }).prepareRequest n).eventEnd))))

/-- The writes of a slot delivery follow in order (R102 to R104): odd generation, data if there is any, header, even generation with the
generation raised, then the report decision; a bus error sets the slot-fault flag and the decision follows at once. Each of these events
ends with the test of the halt condition (R180) and the asking of the ring-fetch requester (R143; its moment is the model's choice, log
entry 37). -/
def Obligations.SlotWritesFollowInOrder : Prop :=
  ∀ (s : State) (n : LineId) (data : Vector Byte 64) (write : SlotWrite) (status : Status) (payload : List Byte) (done : Nat)
    (stamp : Word) (id : PollId) (x : Exchange),
    s.burstOf (.dataMover n) = true → s.hbi.resetting = none → s.hbi.device ≠ .faulted →
    (s.line n).job = some (.slotWrite write status payload done stamp) → (s.line n).exchange = some x → x.origin = .poll id →
    let t := s.clearBurst
    let goOn := fun (u : State) (w : SlotWrite) (d : Nat) =>
      (u.modLine n fun l => { l with job := some (.slotWrite w status payload d stamp) }).eventEnd
    exec (.dataMoverBurstEnd n true data) s =
      .next ((t.modPoll id fun p => { p with slotFault := true }).pollReport n id x).eventEnd ∧
    (write = .oddGeneration →
      exec (.dataMoverBurstEnd n false data) s = .next (goOn t (if payload = [] then .header else .data) 0)) ∧
    (write = .data → payload.length ≤ done + s.burstLength → exec (.dataMoverBurstEnd n false data) s = .next (goOn t .header 0)) ∧
    (write = .data → done + s.burstLength < payload.length →
      exec (.dataMoverBurstEnd n false data) s = .next (goOn t .data (done + s.burstLength))) ∧
    (write = .header →
      exec (.dataMoverBurstEnd n false data) s =
        .next (goOn (t.modPoll id fun p => { p with generation := p.generation + 1 }) .evenGeneration 0)) ∧
    (write = .evenGeneration → exec (.dataMoverBurstEnd n false data) s = .next (t.pollReport n id x).eventEnd)

/-- A fixed completion is claimed (R156 step 5, R157, R159): with a free entry it joins the holding queue and the processor is IDLE; with
none free the processor waits in CLAIMING; in FAULTED nothing is claimed. The end of the data writer's burst (R157, R168, R169, R171): READ
STATION ends DONE with the state its record showed; READ LINE also clears the causes and the break flag its record showed; DEFINE POLL fills
its entry and places it in its line's list, as the last or immediately before the entry B it names, the others keeping their order (R91); a
bus error ends the command ADMIN_BUS_ERROR with no other effect; in FAULTED the processor is IDLE and the write has no other effect (the
model's choice, log entry 27). A cause the record showed is cleared also when it has been recorded again since the grant (the model's
choice, log entry 35). Each of these events ends with the test of the halt condition (R180) and the asking of the ring-fetch requester
(R143; its moment is the model's choice, log entry 37). -/
def Obligations.AdminDataWriteEnds : Prop :=
  ((∀ (s : State) (c : Completion),
     (s.hbi.device = .faulted → s.adminClaim c = s.setAdmin .idle) ∧
     (s.hbi.device ≠ .faulted → s.writer.holding.length < 16 →
       s.adminClaim c = (s.modWriter fun w => { w with holding := w.holding ++ [c], pointer := 5 }).setAdmin .idle) ∧
     (s.hbi.device ≠ .faulted → 16 ≤ s.writer.holding.length → s.adminClaim c = s.setAdmin (.claiming c))) ∧
   ∀ (tag : Half) (code : Byte) (status : Status) (detail : Byte) (delivered residue : Nat) (state : BitVec 3),
     adminCompletion tag code status detail delivered residue state =
       { tag := BitVec.ofNat 32 tag.toNat, status := status, detail := detail, kind := .admin, stationState := state, origin := code,
         attempts := 0, segments := 0, delivered := delivered, residue := residue, stamp := 0 }) ∧
  (∀ (s : State) (tag : Half), s.burstOf .adminWriter = true → s.hbi.resetting = none →
     let t := s.clearBurst
     let answer := fun (u : State) (c : Completion) => (u.adminClaim c).eventEnd
     (s.hbi.device = .faulted → ∀ e, exec (.adminDataWriteEnd e) s = .next (t.setAdmin .idle).eventEnd) ∧
     (s.hbi.device ≠ .faulted →
       (∀ k a shown, s.admin = .writing tag (.readStation k a (some shown)) →
         exec (.adminDataWriteEnd false) s = .next (answer t (adminCompletion tag 0x09#8 .done 0 32 0 shown.code)) ∧
         exec (.adminDataWriteEnd true) s = .next (answer t (adminCompletion tag 0x09#8 .adminBusError 0 0 32 shown.code))) ∧
       (∀ (n : LineId) a shown, s.admin = .writing tag (.readLine n a (some shown)) →
         exec (.adminDataWriteEnd false) s = .next (answer (t.modLine n fun l =>
           { l with
             eventJam := l.eventJam && !shown.jam, eventBreak := l.eventBreak && !shown.breakCause
             eventOverrun := l.eventOverrun && !shown.overrun, breakFlag := l.breakFlag && !shown.breakFlag })
           (adminCompletion tag 0x0C#8 .done 0 32 0 7)) ∧
         exec (.adminDataWriteEnd true) s = .next (answer t (adminCompletion tag 0x0C#8 .adminBusError 0 0 32 7))) ∧
       (∀ a, s.admin = .writing tag (.definePoll a) →
         exec (.adminDataWriteEnd false) s = .next (answer ((t.modPoll a.id fun _ =>
             { Poll.free with
               state := .idle, line := a.line, station := a.station, function := a.function, template := a.template
               slotAddress := a.slotAddress, capacity := a.capacity, divisor := a.divisor, phase := a.phase, mode := a.mode }).modLine
             a.line fun l => { l with pollList := placeInList l.pollList a.id a.before })
           (adminCompletion tag 0x0A#8 .done (BitVec.ofNat 8 a.id.val) 16 0 7)) ∧
         exec (.adminDataWriteEnd true) s = .next (answer t (adminCompletion tag 0x0A#8 .adminBusError 0 0 16 7))))) ∧
  ∀ (id : PollId) (list : List PollId),
    placeInList list id none = list ++ [id] ∧
    ∀ (b : PollId) (front back : List PollId), list = front ++ b :: back → b ∉ front →
      placeInList list id (some b) = front ++ id :: b :: back

/-- CONFIGURE LINE (R160) with its arguments in range: the twelve settings of an OFF line are replaced together and the command ends DONE;
another line is in the wrong state, and nothing changes. START LINE (R161): an OFF engine goes to IDLE and takes the cycle start of cycle 0,
with one choice of the arbiter after its last PROBE offer (the model's choice, log entry 39), whose claims are made before the command's own
(the model's choice, log entry 33). The event ends with the asking of the ring-fetch requester (R143; its moment is the model's choice, log
entry 37). -/
def Obligations.ConfigureAndStartNeedOff : Prop :=
  ∀ (s : State) (n : LineId) (tag : Half) (body : AdminBody), s.AdminTakes → argNat body 3 = n.val →
    let t := s.adminTaken
    (ZeroFrom body 18 → 8 ≤ (argHalf body 4).toNat → argNat body 8 ≤ 2 → 1 ≤ argNat body 9 → argNat body 9 ≤ 2 →
      argNat body 10 ≤ 15 → argNat body 11 ≤ 15 → 2 ≤ argNat body 12 → argNat body 12 ≤ 63 → 2 ≤ argNat body 13 →
      argNat body 13 ≤ 63 → argNat body 14 ≤ 1 → argNat body 15 ≤ 15 → 1 ≤ argNat body 16 → 10 ≤ (argHalf body 6).toNat →
      (argHalf body 6).toNat ≤ 60000 → argNat body 17 ≤ 15 →
      ((s.line n).engine = .off →
        exec (.configureLine tag body) s = .next ((t.modLine n fun l =>
          { l with
            config :=
              { divisor := (argHalf body 4).toNat, parity := [Parity.none, .even, .odd].getD (argNat body 8) .none
                stopBits := argNat body 9, leadDelay := argNat body 10, trailDelay := argNat body 11, quietGap := argNat body 12
                interCharacterLimit := argNat body 13, echoCheck := argNat body 14 == 1, busyLimit := argNat body 15
                busyBackoff := argNat body 16, cyclePeriod := (argHalf body 6).toNat, oneShotShare := argNat body 17 } }).adminClaim
          (adminCompletion tag 0x01#8 .done 0 0 0 7)).askFetch) ∧
      ((s.line n).engine ≠ .off →
        exec (.configureLine tag body) s = .next (t.adminClaim (adminCompletion tag 0x01#8 .wrongState 0 0 0 7)).askFetch)) ∧
    (ZeroFrom body 4 →
      ((s.line n).engine = .off →
        ∃ l : Line, exec (.startLine tag body) s =
            .next (((t.modLine n fun _ => l).runCycle n).adminClaim (adminCompletion tag 0x02#8 .done 0 0 0 7)).askFetch ∧
          l.engine = .idle ∧ l.exchange = none ∧ l.claim = none ∧ l.timers = .stopped ∧ l.counters = .zero ∧ l.breakFlag = false ∧
          l.eventJam = false ∧ l.eventBreak = false ∧ l.eventOverrun = false ∧ l.share = 0 ∧
          l.cycleTimer = .running (s.line n).config.cyclePeriod ∧
          l.rxPhase = (if (s.line n).rxHigh then .waitEdge else .waitHigh) ∧ l.rxHigh = (s.line n).rxHigh ∧
          l.config = (s.line n).config ∧ l.stopping = (s.line n).stopping ∧ l.prefetched = (s.line n).prefetched ∧
          l.followUp = (s.line n).followUp ∧ l.pollList = (s.line n).pollList) ∧
      ((s.line n).engine ≠ .off →
        exec (.startLine tag body) s = .next (t.adminClaim (adminCompletion tag 0x02#8 .wrongState 0 0 0 7)).askFetch))

/-- STOP LINE (R162): DONE at once for an OFF line; otherwise STOPPING is set, the command waits, and the mode acts. After a DRAIN the
follow-up queue is empty, the cycle timer stopped, a waiting MALFORMED claim of the line withdrawn (R39, R95, R147), and the exchange in
flight goes on. CUT acts on the exchange in flight by the engine's state (R41): at once ABORTED where nothing is on the line or the bus
(also with a request of the data mover waiting for its grant, the model's choice, log entry 38), at the end of the character, of TRAIL, of
the burst or of the slot delivery elsewhere; nothing where there is none or it has ended. An engine in IDLE completes the prefetched
requests ABORTED, oldest first (R39): detail and counts 0, station state 7, the cycle number at the claim; with the queue full it waits in
COMPLETE_WAIT. Residue 0 also for a BULK WRITE is the model's reading (log entry 16), and that a record leaves the prefetch queue at its
claim its choice (log entry 21). Setting STOPPING clears the line's DUE and due-again marks, returns the reservations of its EVENT_FETCH
entries, voids a fetch under way of its ring, and changes nothing else. The event ends with the asking of the ring-fetch requester (R143;
its moment is the model's choice, log entry 37). -/
def Obligations.StopLineStopsOrWaits : Prop :=
  (∀ (s : State) (n : LineId) (tag : Half) (body : AdminBody), s.AdminTakes → argNat body 3 = n.val → argNat body 4 ≤ 1 →
     ZeroFrom body 5 →
     let t := s.adminTaken
     ((s.line n).engine = .off →
       exec (.stopLine tag body) s = .next (t.adminClaim (adminCompletion tag 0x03#8 .done 0 0 0 7)).askFetch) ∧
     ((s.line n).engine ≠ .off →
       (argNat body 4 = 0 →
         exec (.stopLine tag body) s =
           .next (((t.setAdmin (.deferred tag (.stopLine n))).setStopping n .drain).abortPrefetched n).askFetch ∧
         ∃ u, exec (.stopLine tag body) s = .next u ∧ u.admin = .deferred tag (.stopLine n) ∧ (u.line n).stopping = some .drain ∧
           (u.line n).followUp = [] ∧ (u.line n).cycleTimer = .stopped ∧ (u.line n).exchange = (s.line n).exchange ∧
           (∀ q, u.ringUnit.claim = some q → q.1 ≠ n) ∧ ((s.line n).engine ≠ .idle → (u.line n).engine = (s.line n).engine)) ∧
       (argNat body 4 = 1 →
         exec (.stopLine tag body) s =
           .next ((((t.setAdmin (.deferred tag (.stopLine n))).setStopping n .cut).cutLine n).abortPrefetched n).askFetch))) ∧
  (∀ (s : State) (n : LineId),
     ((s.line n).engine ∈ [Engine.off, .idle, .completeWait] → s.cutLine n = s) ∧
     ((s.line n).engine ∈ [Engine.quiet, .backoff, .lead, .await, .receive] → s.cutLine n = s.endExchange n .aborted 0) ∧
     ((s.line n).engine ∈ [Engine.send, .trail] → s.cutLine n = s.modLine n fun l => { l with cutting := true }) ∧
     ((s.line n).engine = .deliver →
       (∀ w st d k c, (s.line n).job = some (.slotWrite w st d k c) → s.cutLine n = s.modLine n fun l => { l with cutting := true }) ∧
       ((∀ w st d k c, (s.line n).job ≠ some (.slotWrite w st d k c)) →
         (s.burstOf (.dataMover n) = true → s.cutLine n = s.modLine n fun l => { l with cutting := true }) ∧
         (s.burstOf (.dataMover n) = false → s.cutLine n = s.endExchange n .aborted 0)))) ∧
  ∀ (s : State) (n : LineId),
    ((s.line n).engine ≠ .idle ∨ (s.line n).prefetched = [] → s.abortPrefetched n = s) ∧
    (∀ r rest, (s.line n).engine = .idle → (s.line n).prefetched = r :: rest →
      let c : Completion :=
        { tag := r.tag, status := .aborted, detail := 0, kind := .request, stationState := 7, origin := BitVec.ofNat 8 n.val
          attempts := 0, segments := 0, delivered := 0, residue := 0, stamp := (s.line n).counters.cycle.setWidth 16 }
      (s.writer.holding.length < 16 → s.hbi.device ≠ .faulted →
        s.abortPrefetched n = ((s.modLine n fun l => { l with prefetched := rest }).modWriter fun w =>
          { w with holding := w.holding ++ [c], pointer := Fin.ofNat 7 (n.val + 1) }).abortPrefetched n) ∧
      (16 ≤ s.writer.holding.length ∨ s.hbi.device = .faulted →
        s.abortPrefetched n = s.modLine n fun l =>
          { l with
            prefetched := rest, engine := .completeWait, claim := some c
            timers := .stopped, received := [], candidate := [], txCharacter := none, echoPending := none })) ∧
    ∀ mode : StopMode,
      let t := s.setStopping n mode
      t.line n = { s.line n with stopping := some mode, cycleTimer := .stopped, followUp := [] } ∧
      (∀ m, m ≠ n → t.line m = s.line m) ∧
      (∀ id : PollId,
        (id ∈ (s.line n).pollList →
          t.poll id = { s.poll id with state := if (s.poll id).state = .due then .idle else (s.poll id).state, dueAgain := false }) ∧
        (id ∉ (s.line n).pollList → t.poll id = s.poll id)) ∧
      t.capture.reserved = s.capture.reserved - 144 * ((s.line n).followUp.filter fun f => f.kind == .eventFetch).length ∧
      ((∀ f ∈ (s.line n).followUp, f.kind ≠ .eventFetch) → t.capture = s.capture ∧ t.hbi = s.hbi) ∧
      t.capture = { s.capture with reserved := t.capture.reserved, paused := t.capture.paused } ∧
      t.ringUnit = { s.ringUnit with
        claim := if s.ringUnit.claim.any (fun q => q.1 == n) then none else s.ringUnit.claim
        fetchVoid := s.ringUnit.fetchVoid || s.burstOf (.ringFetch n.succ) } ∧
      t.hbi = { s.hbi with attention := t.hbi.attention } ∧ t.writer = s.writer ∧ t.admin = s.admin ∧ t.stations = s.stations

/-- DEFINE STATION (R163, R69): NO_SPACE, IN_USE, DUPLICATE_ADDRESS in that order; otherwise the slot named, or with FFh the lowest ABSENT
one, is filled: PROBING, the arguments, resync set, every other field zero; the slot is the detail. The event ends with the asking of the
ring-fetch requester (R143; its moment is the model's choice, log entry 37). -/
def Obligations.StationIsDefined : Prop :=
  ∀ (s : State) (tag : Half) (body : AdminBody) (n : LineId), s.AdminTakes → ZeroFrom body 11 →
    (argNat body 3 ≤ 127 ∨ argNat body 3 = 255) → argNat body 4 = n.val → 1 ≤ argNat body 5 → argNat body 5 ≤ 126 →
    StationSettingsValid body 6 →
    let t := s.adminTaken
    let taken := fun m : SlotId => (s.station m).state ≠ .absent
    let duplicate := ∃ m : SlotId, taken m ∧ (s.station m).line = n ∧ (s.station m).address.toNat = argNat body 5
    (argNat body 3 = 255 → (∀ m, taken m) →
      exec (.defineStation tag body) s = .next (t.adminClaim (adminCompletion tag 0x04#8 .noSpace 0 0 0 7)).askFetch) ∧
    (∀ k : SlotId, k.val = argNat body 3 → taken k →
      exec (.defineStation tag body) s =
        .next (t.adminClaim (adminCompletion tag 0x04#8 .inUse 0 0 0 (s.station k).state.code)).askFetch) ∧
    (∀ k : SlotId, ¬taken k → (k.val = argNat body 3 ∨ (argNat body 3 = 255 ∧ ∀ m, m < k → taken m)) →
      (duplicate → exec (.defineStation tag body) s = .next (t.adminClaim
        (adminCompletion tag 0x04#8 .duplicateAddress 0 0 0 (if argNat body 3 = 255 then 7 else 0))).askFetch) ∧
      (¬duplicate → exec (.defineStation tag body) s = .next ((t.modStation k fun _ =>
          { state := .probing, line := n, address := BitVec.ofNat 7 (argNat body 5), responseTimeout := argNat body 6
            retryLimit := argNat body 7, threshold := argNat body 8, reprobeInterval := argNat body 9
            captureEnable := argNat body 10 == 1, toggle := false, resync := true, failures := 0, reprobe := 0
            eventPending := false, notice := false, busy := false, pending := .clear, good := 0, failed := 0 }).adminClaim
        (adminCompletion tag 0x04#8 .done (BitVec.ofNat 8 k.val) 0 0 1)).askFetch))

/-- MODIFY STATION (R164, R82, R83): NOT_FOUND for an ABSENT entry; otherwise the five settings are replaced and nothing else, unless the
new threshold puts failures out of range: a PROBING or SUSPECT entry with failures not below it goes OFFLINE with its notice flag set, and
an OFFLINE entry's failures become the new threshold. The scanner claims in the event a flag is newly set (R81, R151), before or after the
command's own claim: which, is a free value (the model's choice, log entry 13). Its claims are granted one by one while an entry is free:
each posts the notice of the next flagged slot, clears that flag and moves the scanner and the grant pointer on. The event ends with the
asking of the ring-fetch requester (R143; its moment is the model's choice, log entry 37). -/
def Obligations.StationIsModified : Prop :=
  (∀ s : State,
    (16 ≤ s.writer.holding.length ∨ s.hbi.device = .faulted ∨ (∀ k, (s.station k).notice = false) → s.postNotices = s) ∧
    ∀ (k : SlotId) (c : Completion), s.writer.holding.length < 16 → s.hbi.device ≠ .faulted → s.nextNotice = some k →
      s.claimOf 6 = some c →
      s.postNotices = ((s.modStation k fun st => { st with notice := false }).modWriter fun w =>
        { w with holding := w.holding ++ [c], pointer := 0, noticeNext := k + 1 }).postNotices) ∧
  ∀ (s : State) (tag : Half) (body : AdminBody) (k : SlotId), s.AdminTakes → ZeroFrom body 9 → argNat body 3 = k.val →
    StationSettingsValid body 4 →
    let t := s.adminTaken
    let old := s.station k
    let set : Station :=
      { old with
        responseTimeout := argNat body 4, retryLimit := argNat body 5, threshold := argNat body 6, reprobeInterval := argNat body 7
        captureEnable := argNat body 8 == 1 }
    let offline : Station := { set with state := .offline, failures := argNat body 6, reprobe := 0, notice := true }
    (old.state = .absent →
      exec (.modifyStation tag body) s = .next (t.adminClaim (adminCompletion tag 0x05#8 .notFound 0 0 0 0)).askFetch) ∧
    (old.state = .online ∨ old.state = .held ∨ ((old.state = .probing ∨ old.state = .suspect) ∧ old.failures < argNat body 6) →
      exec (.modifyStation tag body) s =
        .next ((t.modStation k fun _ => set).adminClaim (adminCompletion tag 0x05#8 .done 0 0 0 old.state.code)).askFetch) ∧
    (old.state = .offline →
      exec (.modifyStation tag body) s = .next ((t.modStation k fun _ => { set with failures := argNat body 6 }).adminClaim
        (adminCompletion tag 0x05#8 .done 0 0 0 4)).askFetch) ∧
    (old.state = .probing ∨ old.state = .suspect → argNat body 6 ≤ old.failures →
      (old.notice = true →
        exec (.modifyStation tag body) s =
          .next ((t.modStation k fun _ => offline).adminClaim (adminCompletion tag 0x05#8 .done 0 0 0 4)).askFetch) ∧
      (old.notice = false →
        let u := { (t.modStation k fun _ => offline) with free := s.free + 1 }
        let c := adminCompletion tag 0x05#8 .done 0 0 0 4
        exec (.modifyStation tag body) s = .next (u.postNotices.adminClaim c).askFetch ∨
          exec (.modifyStation tag body) s = .next (u.adminClaim c).postNotices.askFetch))

/-- HOLD, RELEASE and REMOVE STATION (R165 to R167, R84 to R86): refused by the entry's state, at once on a free entry, and deferred with
the pending flag set on a busy one; a held or removed station's follow-up entries leave its line's queue. The event ends with the asking
of the ring-fetch requester (R143; its moment is the model's choice, log entry 37). -/
def Obligations.StationIsHeldReleasedRemoved : Prop :=
  ∀ (s : State) (tag : Half) (body : AdminBody) (k : SlotId), s.AdminTakes → ZeroFrom body 4 → argNat body 3 = k.val →
    let t := s.adminTaken
    let old := s.station k
    let live := old.state = .probing ∨ old.state = .online ∨ old.state = .suspect ∨ old.state = .offline
    let drop := t.dropFollowUps old.line fun f => f.slot == k
    let named := ∃ id : PollId, (s.poll id).state ≠ .free ∧ (s.poll id).station = k
    (old.state = .absent →
      exec (.holdStation tag body) s = .next (t.adminClaim (adminCompletion tag 0x07#8 .notFound 0 0 0 0)).askFetch ∧
      exec (.removeStation tag body) s = .next (t.adminClaim (adminCompletion tag 0x06#8 .notFound 0 0 0 0)).askFetch) ∧
    (old.state = .held → exec (.holdStation tag body) s = .next (t.adminClaim (adminCompletion tag 0x07#8 .done 0 0 0 5)).askFetch ∧
      exec (.releaseStation tag body) s =
        .next ((t.modStation k fun st => { st with state := .probing, failures := 0, resync := true }).adminClaim
          (adminCompletion tag 0x08#8 .done 0 0 0 1)).askFetch) ∧
    (old.state ≠ .held →
      exec (.releaseStation tag body) s = .next (t.adminClaim (adminCompletion tag 0x08#8 .wrongState 0 0 0 old.state.code)).askFetch) ∧
    (live → old.busy = true → exec (.holdStation tag body) s =
      .next ((t.modStation k fun st => { st with pending := .hold }).setAdmin (.deferred tag (.holdStation k))).askFetch) ∧
    (live → old.busy = false → exec (.holdStation tag body) s =
      .next ((drop.modStation k fun st => { st with state := .held, failures := 0, reprobe := 0, pending := .clear }).adminClaim
        (adminCompletion tag 0x07#8 .done 0 0 0 5)).askFetch) ∧
    (old.state ≠ .absent → named →
      exec (.removeStation tag body) s = .next (t.adminClaim (adminCompletion tag 0x06#8 .inUse 0 0 0 old.state.code)).askFetch) ∧
    (old.state ≠ .absent → ¬named → old.busy = true → exec (.removeStation tag body) s =
      .next ((t.modStation k fun st => { st with pending := .remove }).setAdmin (.deferred tag (.removeStation k))).askFetch) ∧
    (old.state ≠ .absent → ¬named → old.busy = false → exec (.removeStation tag body) s =
      .next ((drop.modStation k fun _ => Station.absent).adminClaim (adminCompletion tag 0x06#8 .done 0 0 0 0)).askFetch)

/-- READ STATION, READ LINE and DEFINE POLL go to WRITING with their write to make (R168, R169, R171); DEFINE POLL is refused NO_SPACE,
IN_USE or NOT_FOUND in the order of its table, and with FFh takes the lowest FREE id. DELETE POLL (R170, R107): NOT_FOUND for a FREE
entry; an IDLE or DUE one is freed at once, leaving its line's list; an IN_FLIGHT one becomes DELETING and the command waits. The event
ends with the asking of the ring-fetch requester (R143; its moment is the model's choice, log entry 37). -/
def Obligations.ReadsAndPollCommands : Prop :=
  (∀ (s : State) (tag : Half) (body : AdminBody), s.AdminTakes →
     let t := s.adminTaken
     (∀ k : SlotId, argNat body 3 = k.val → ZeroFrom body 8 → (argWord body 4).toNat % 32 = 0 →
       exec (.readStation tag body) s = .next (t.setAdmin (.writing tag (.readStation k (argWord body 4) none))).askFetch) ∧
     (∀ n : LineId, argNat body 3 = n.val → ZeroFrom body 8 → (argWord body 4).toNat % 32 = 0 →
       exec (.readLine tag body) s = .next (t.setAdmin (.writing tag (.readLine n (argWord body 4) none))).askFetch) ∧
     (argNat body 8 < 16 → (argNat body 3 ≤ 95 ∨ argNat body 3 = 255) → argNat body 9 ≤ 127 → 1 ≤ argNat body 10 →
       argNat body 10 ≤ 0x6F → argNat body 11 ≤ 16 → (argWord body 4).toNat % 16 = 0 → argNat body 12 ≤ 64 →
       argNat body 14 < argNat body 13 → (argNat body 15 ≤ 95 ∨ argNat body 15 = 255) →
       (argNat body 3 = 255 → (∀ m, (s.poll m).state ≠ .free) →
         exec (.definePoll tag body) s = .next (t.adminClaim (adminCompletion tag 0x0A#8 .noSpace 0 0 0 7)).askFetch) ∧
       (∀ id : PollId, id.val = argNat body 3 → (s.poll id).state ≠ .free →
         exec (.definePoll tag body) s = .next (t.adminClaim (adminCompletion tag 0x0A#8 .inUse 0 0 0 7)).askFetch) ∧
       (∀ (id : PollId) (n : LineId) (k : SlotId), (s.poll id).state = .free →
         (id.val = argNat body 3 ∨ (argNat body 3 = 255 ∧ ∀ m, m < id → (s.poll m).state ≠ .free)) →
         n.val = argNat body 8 % 4 → k.val = argNat body 9 →
         let here := (s.station k).state ≠ .absent ∧ (s.station k).line = n ∧
           ∀ b : PollId, b.val = argNat body 15 → b ∈ (s.line n).pollList
         (¬here → exec (.definePoll tag body) s = .next (t.adminClaim (adminCompletion tag 0x0A#8 .notFound 0 0 0 7)).askFetch) ∧
         (here → exec (.definePoll tag body) s = .next (t.setAdmin (.writing tag (.definePoll
           { id := id, line := n, station := k, function := argByte body 10
             template := (List.range (argNat body 11)).map fun j => argByte body (16 + j), slotAddress := argWord body 4
             capacity := argNat body 12, divisor := argNat body 13, phase := argNat body 14
             mode := [ReportMode.never, .always, .onChange, .onError].getD (argNat body 8 / 4) .never
             before := if h : argNat body 15 < 96 then some ⟨argNat body 15, h⟩ else none }))).askFetch)))) ∧
  (∀ (s : State) (tag : Half) (body : AdminBody) (id : PollId), s.AdminTakes → ZeroFrom body 4 → argNat body 3 = id.val →
     let t := s.adminTaken
     ((s.poll id).state = .free →
       exec (.deletePoll tag body) s = .next (t.adminClaim (adminCompletion tag 0x0B#8 .notFound 0 0 0 7)).askFetch) ∧
     ((s.poll id).state = .idle ∨ (s.poll id).state = .due →
       exec (.deletePoll tag body) s = .next (((t.modLine (s.poll id).line fun l =>
           { l with pollList := l.pollList.filter (· != id) }).modPoll id fun _ => Poll.free).adminClaim
         (adminCompletion tag 0x0B#8 .done 0 0 0 7)).askFetch) ∧
     ((s.poll id).state = .inFlight →
       exec (.deletePoll tag body) s = .next ((t.modPoll id fun p => { p with state := .deleting, dueAgain := false }).setAdmin
         (.deferred tag (.deletePoll id))).askFetch))

/-- SET CAPTURE (R172, R135): with no reserved byte and an empty write queue it applies at once: the new configuration, offsets,
unreleased bytes and lap count 0, paused, fault and bad-release clear, the lost flag kept, DONE; otherwise reconfiguration pending is set
and it waits. With enable 0 the other arguments are not checked. The event ends with the asking of the ring-fetch requester (R143; its
moment is the model's choice, log entry 37). -/
def Obligations.CaptureIsConfigured : Prop :=
  ∀ (s : State) (tag : Half) (body : AdminBody), s.AdminTakes → ZeroFrom body 20 → argNat body 6 = 0 → argNat body 7 = 0 →
    let t := s.adminTaken
    let stop := (argWord body 12).toNat
    let resume := (argWord body 16).toNat
    let size := 2 ^ argNat body 5
    ∀ config : Option CaptureConfig,
      (argNat body 3 = 0 ∧ config = none ∨
        argNat body 3 = 1 ∧ (argWord body 8).toNat % 64 = 0 ∧ 10 ≤ argNat body 5 ∧ argNat body 5 ≤ 20 ∧ argNat body 4 ≤ 1 ∧
          144 ≤ stop ∧ stop ≤ size / 2 ∧ stop + 72 ≤ resume ∧ resume ≤ size ∧
          config = some { base := argWord body 8, size := size, mode := if argNat body 4 = 0 then .hold else .loop
                          stopMark := stop, resumeMark := resume }) →
      (s.capture.reserved = 0 → s.capture.writeQueue = [] →
        exec (.setCapture tag body) s = .next (((t.setAdmin (.deferred tag (.setCapture config))).modCapture fun c =>
            { c with
              config := config, writeOffset := 0, placeOffset := 0, releaseOffset := 0, unreleased := 0, lapCount := 0
              paused := false, fault := false, badRelease := false, reconfig := false, placeWrapped := false }).adminClaim
          (adminCompletion tag 0x0D#8 .done 0 0 0 7)).askFetch) ∧
      (s.capture.reserved ≠ 0 ∨ s.capture.writeQueue ≠ [] →
        exec (.setCapture tag body) s =
          .next ((t.modCapture fun c => { c with reconfig := true }).setAdmin (.deferred tag (.setCapture config))).askFetch)

/-- RESTART RING (R173, R141): with the ring's line OFF both indices become the one given, the ring is ACTIVE, the shadow area is marked
and the command ends DONE, the ring fault word being kept; otherwise it ends WRONG_STATE and nothing changes. The event ends with the
asking of the ring-fetch requester (R143; its moment is the model's choice, log entry 37). -/
def Obligations.RingIsRestarted : Prop :=
  ∀ (s : State) (tag : Half) (body : AdminBody) (n : LineId), s.AdminTakes → ZeroFrom body 6 → argNat body 3 = n.val + 1 →
    let t := s.adminTaken
    ((s.line n).engine = .off →
      exec (.restartRing tag body) s = .next ((t.modRing n.succ fun g =>
          { g with consumer := argHalf body 4, accepted := argHalf body 4, state := .active }).adminClaim
        (adminCompletion tag 0x0E#8 .done 0 0 0 7)).askFetch) ∧
    ((s.line n).engine ≠ .off →
      exec (.restartRing tag body) s = .next (t.adminClaim (adminCompletion tag 0x0E#8 .wrongState 0 0 0 7)).askFetch)

/-- An unknown code ends BAD_COMMAND with no argument checked (R156 step 1). Otherwise a nonzero reserved byte ends the command
BAD_ARGUMENT with detail 0, and with none the first argument out of range, in the numbering of its command, with that number as its detail
(R156 step 2, R157, with the places of R193 and the ranges of R160 to R173); nothing else changes but the take. With a code 01h..0Eh the
row BAD_COMMAND changes nothing (the model's choice, log entry 1). The event ends with the asking of the ring-fetch requester (R143; its
moment is the model's choice, log entry 37). -/
def Obligations.BadRecordsAreRefused : Prop :=
  (∀ (s : State) (tag : Half) (code : Byte) (body : AdminBody), 1 ≤ code.toNat → code.toNat ≤ 14 →
    exec (.badCommand tag code body) s = .next s) ∧
  ∀ (s : State) (tag : Half) (body : AdminBody), s.AdminTakes →
    let t := s.adminTaken
    let refuse := fun (code : Byte) (k : Nat) => t.adminClaim (adminCompletion tag code .badArgument (BitVec.ofNat 8 k) 0 0 7)
    let arg := fun k : Nat => (body.toList.getD (k - 3) 0#8).toNat
    let half := fun k : Nat => arg k + 256 * arg (k + 1)
    let word := fun k : Nat => half k + 65536 * half (k + 2)
    let out := fun lo hi k : Nat => decide (k < lo ∨ hi < k)
    let settings := fun k : Nat =>
      [out 1 255 (arg k), out 0 7 (arg (k + 1)), out 1 15 (arg (k + 2)), out 1 255 (arg (k + 3)), out 0 1 (arg (k + 4))]
    let first := fun (bad : List Bool) (k : Nat) =>
      1 ≤ k ∧ bad[k - 1]? = some true ∧ ∀ j, 1 ≤ j → j < k → bad[j - 1]? = some false
    let checked := fun (c : Instr) (code : Byte) (reserved : Prop) (bad : List Bool) =>
      (reserved → exec c s = .next (refuse code 0).askFetch) ∧ (¬reserved → ∀ k, first bad k → exec c s = .next (refuse code k).askFetch)
    let from' := fun offset : Nat => ∃ k, offset ≤ k ∧ k < 32 ∧ arg k ≠ 0
    (∀ code : Byte, code.toNat = 0 ∨ 14 < code.toNat →
      exec (.badCommand tag code body) s = .next (t.adminClaim (adminCompletion tag code .badCommand 0 0 0 7)).askFetch) ∧
    checked (.configureLine tag body) 0x01#8 (from' 18)
      [out 0 3 (arg 3), out 8 65535 (half 4), out 0 2 (arg 8), out 1 2 (arg 9), out 0 15 (arg 10), out 0 15 (arg 11),
       out 2 63 (arg 12), out 2 63 (arg 13), out 0 1 (arg 14), out 0 15 (arg 15), out 1 255 (arg 16), out 10 60000 (half 6),
       out 0 15 (arg 17)] ∧
    checked (.startLine tag body) 0x02#8 (from' 4) [out 0 3 (arg 3)] ∧
    checked (.stopLine tag body) 0x03#8 (from' 5) [out 0 3 (arg 3), out 0 1 (arg 4)] ∧
    checked (.defineStation tag body) 0x04#8 (from' 11)
      ([out 0 127 (arg 3) && arg 3 != 255, out 0 3 (arg 4), out 1 126 (arg 5)] ++ settings 6) ∧
    checked (.modifyStation tag body) 0x05#8 (from' 9) (out 0 127 (arg 3) :: settings 4) ∧
    checked (.removeStation tag body) 0x06#8 (from' 4) [out 0 127 (arg 3)] ∧
    checked (.holdStation tag body) 0x07#8 (from' 4) [out 0 127 (arg 3)] ∧
    checked (.releaseStation tag body) 0x08#8 (from' 4) [out 0 127 (arg 3)] ∧
    checked (.readStation tag body) 0x09#8 (from' 8) [out 0 127 (arg 3), word 4 % 32 != 0] ∧
    checked (.definePoll tag body) 0x0A#8 (16 ≤ arg 8)
      [out 0 95 (arg 3) && arg 3 != 255, false, out 0 127 (arg 9), out 0x01 0x6F (arg 10), out 0 16 (arg 11), word 4 % 16 != 0,
       out 0 64 (arg 12), out 1 255 (arg 13), decide (arg 13 ≤ arg 14), false, out 0 95 (arg 15) && arg 15 != 255] ∧
    checked (.deletePoll tag body) 0x0B#8 (from' 4) [out 0 95 (arg 3)] ∧
    checked (.readLine tag body) 0x0C#8 (from' 8) [out 0 3 (arg 3), word 4 % 32 != 0] ∧
    checked (.setCapture tag body) 0x0D#8 (arg 6 ≠ 0 ∨ arg 7 ≠ 0 ∨ from' 20)
      (if arg 3 = 0 then [] else
        [out 0 1 (arg 3), word 8 % 64 != 0, out 10 20 (arg 5), out 0 1 (arg 4), out 144 (2 ^ arg 5 / 2) (word 12),
         out (word 12 + 72) (2 ^ arg 5) (word 16)]) ∧
    checked (.restartRing tag body) 0x0E#8 (from' 6) [out 1 4 (arg 3)]

/-- A deferred command applies in the event its condition holds, and its DONE completion is claimed (R158): a STOP LINE when its engine is
OFF, a HOLD or REMOVE when the busy flag is clear, a DELETE POLL when its entry is free, a SET CAPTURE with no reservation and an empty
write queue; until then nothing changes. With no deferred command nothing applies (the model's choice, log entry 1). Each of these events
ends with the test of the halt condition (R180) and the asking of the ring-fetch requester (R143; its moment is the model's choice, log
entry 37). -/
def Obligations.DeferredCommandApplies : Prop :=
  ∀ (s : State) (tag : Half),
    exec .deferredCommandApply s = .next s.deferredApply.eventEnd ∧
    ((∀ other w, s.admin ≠ .deferred other w) → s.deferredApply = s) ∧
    (∀ n : LineId, s.admin = .deferred tag (.stopLine n) →
      ((s.line n).engine = .off → s.deferredApply = s.adminClaim (adminCompletion tag 0x03#8 .done 0 0 0 7)) ∧
      ((s.line n).engine ≠ .off → s.deferredApply = s)) ∧
    (∀ k : SlotId, s.admin = .deferred tag (.holdStation k) →
      ((s.station k).busy = false → s.deferredApply = (s.applyHold k).adminClaim (adminCompletion tag 0x07#8 .done 0 0 0 5)) ∧
      ((s.station k).busy = true → s.deferredApply = s)) ∧
    (∀ k : SlotId, s.admin = .deferred tag (.removeStation k) →
      ((s.station k).busy = false → s.deferredApply = (s.applyRemove k).adminClaim (adminCompletion tag 0x06#8 .done 0 0 0 0)) ∧
      ((s.station k).busy = true → s.deferredApply = s)) ∧
    (∀ id : PollId, s.admin = .deferred tag (.deletePoll id) →
      ((s.poll id).state = .free → s.deferredApply = s.adminClaim (adminCompletion tag 0x0B#8 .done 0 0 0 7)) ∧
      ((s.poll id).state ≠ .free → s.deferredApply = s)) ∧
    (∀ config, s.admin = .deferred tag (.setCapture config) →
      (s.capture.reserved = 0 → s.capture.writeQueue = [] →
        s.deferredApply = (s.modCapture fun c => c.reconfigure config).adminClaim (adminCompletion tag 0x0D#8 .done 0 0 0 7)) ∧
      (s.capture.reserved ≠ 0 ∨ s.capture.writeQueue ≠ [] → s.deferredApply = s))

/-! ### Halting, the return to RUNNING, and a line that stops -/

/-- The halt condition (R180): the Admin Processor IDLE and every engine OFF, or IDLE with STOPPING clear. Tested in HALTING, it takes the
device to HALTED with its cause latched when ENABLE is clear, and back to RUNNING when ENABLE is set. At the return (R95, R118) every
running line takes a cycle start, its number rising by 1 and its timer restarting from the full period, and its arbiter makes a choice; a
line that is OFF or STOPPING takes neither. The cycle starts and choices of all lines are taken in a free order (the model's choice, log
entry 13). Then the ring-fetch requester asks again (log entry 37). Outside its condition the test changes nothing (the model's choice,
log entry 1). -/
def Obligations.HaltConditionIsTested : Prop :=
  (∀ s : State,
     let holds := s.admin = .idle ∧
       ∀ n : LineId, (s.line n).engine = .off ∨ ((s.line n).engine = .idle ∧ (s.line n).stopping = none)
     exec .haltCondition s = .next s.haltTest ∧
     (s.hbi.device ≠ .halting ∨ ¬holds → exec .haltCondition s = .next s) ∧
     (s.hbi.device = .halting → holds → s.hbi.enable = false →
       ∃ t, exec .haltCondition s = .next t ∧ t.hbi.device = .halted ∧
         (∀ i : Fin 7, t.hbi.attention[i] = (s.hbi.attention[i] || i.val == 5)) ∧
         t = s.modHbi fun h => { h with device := .halted, attention := t.hbi.attention }) ∧
     (s.hbi.device = .halting → holds → s.hbi.enable = true → exec .haltCondition s = .next s.returnToRunning)) ∧
  (∀ (s : State) (n : LineId), s.resume (n, .cycleStart) = s.nextCycle n ∧ s.resume (n, .choice) = s.arbiterChoice n) ∧
  ∀ s : State,
    let t := s.returnToRunning
    let runs := fun n : LineId => decide ((s.line n).engine ≠ .off) && (s.line n).stopping.isNone
    (∃ (order : List (LineId × Resumption)) (free : Nat), order.Nodup ∧ (∀ e : LineId × Resumption, e ∈ order ↔ runs e.1 = true) ∧
      t = (order.foldl State.resume
        { (s.modHbi fun h => { h with device := .running }) with free := free }).askFetch) ∧
    t.hbi = { s.hbi with device := .running, attention := t.hbi.attention } ∧
      ∀ n : LineId,
        ((s.line n).engine ≠ .off → (s.line n).stopping = none →
          (t.line n).counters.cycle = (s.line n).counters.cycle + 1 ∧
            (t.line n).cycleTimer = .running (s.line n).config.cyclePeriod) ∧
        ((s.line n).engine = .off ∨ (s.line n).stopping ≠ none →
          (t.line n).counters = (s.line n).counters ∧ (t.line n).cycleTimer = (s.line n).cycleTimer ∧
            (t.line n).engine = (s.line n).engine ∧ (t.line n).prefetched = (s.line n).prefetched)

/-- The entry to HALTING with an exchange in flight somewhere (R95, R118, R147, R179): a fetch under way is voided and a waiting MALFORMED
claim withdrawn; at every line the running timer freezes, the DUE and due-again marks clear, EVENT_FETCH entries leave with their
reservations returned; exchanges, prefetched requests, PROBE entries, share counters, stations and the holding queue are kept. At any
entry to HALTING the state so frozen is then that in which a deferred admin command applies when its condition holds (R158) and the halt
condition is tested (R180); met at once, it takes the device to HALTED in the event, with its cause latched. -/
def Obligations.EnteringHaltingFreezesTheLines : Prop :=
  (∀ (s : State) (irq : Bool) (m : LineId), s.hbi.resetting = none → s.hbi.device = .running → s.hbi.enable = true →
    (s.line m).engine ≠ .off → (s.line m).engine ≠ .idle → (∀ tag w, s.admin ≠ .deferred tag w) →
    ∃ t, exec (.enableClear irq) s = .next t ∧
      t.hbi = { s.hbi with device := .halting, enable := false, irqEnable := irq, attention := t.hbi.attention } ∧
      t.ringUnit = { s.ringUnit with claim := none, requested := none, fetchVoid := t.ringUnit.fetchVoid } ∧
      (∀ r, s.burstOf (.ringFetch r) = true → t.ringUnit.fetchVoid = true) ∧
      t.writer = s.writer ∧ t.admin = s.admin ∧ t.stations = s.stations ∧
      (∀ n : LineId, t.line n =
        { s.line n with
          cycleTimer := match (s.line n).cycleTimer with
            | .running _ => .frozen
            | other => other
          followUp := (s.line n).followUp.filter fun f => f.kind == .probe }) ∧
      t.capture.reserved = s.capture.reserved -
        144 * (allLines.map fun n => ((s.line n).followUp.filter fun f => f.kind == .eventFetch).length).sum ∧
      (∀ id : PollId,
        ((∃ n, id ∈ (s.line n).pollList) →
          t.poll id = { s.poll id with state := if (s.poll id).state = .due then .idle else (s.poll id).state, dueAgain := false }) ∧
        ((∀ n, id ∉ (s.line n).pollList) → t.poll id = s.poll id))) ∧
  ∀ (s : State) (irq : Bool), s.hbi.resetting = none → s.hbi.device = .running → s.hbi.enable = true →
    ∃ u : State, exec (.enableClear irq) s = .next u.deferredApply.haltTest ∧
      u.hbi = { s.hbi with device := .halting, enable := false, irqEnable := irq, attention := u.hbi.attention } ∧
      (∀ i : Fin 7, i ≠ 2 → u.hbi.attention[i] = s.hbi.attention[i]) ∧ (s.hbi.attention[2] = true → u.hbi.attention[2] = true) ∧
      u.ringUnit = { s.ringUnit with claim := none, requested := none, fetchVoid := u.ringUnit.fetchVoid } ∧
      (∀ r, s.burstOf (.ringFetch r) = true → u.ringUnit.fetchVoid = true) ∧
      u.writer = s.writer ∧ u.admin = s.admin ∧ u.stations = s.stations ∧
      (∀ n : LineId, u.line n =
        { s.line n with
          cycleTimer := match (s.line n).cycleTimer with
            | .running _ => .frozen
            | other => other
          followUp := (s.line n).followUp.filter fun f => f.kind == .probe }) ∧
      (s.admin = .idle → (∀ n : LineId, (s.line n).engine = .off ∨ ((s.line n).engine = .idle ∧ (s.line n).stopping = none)) →
        ∃ t, exec (.enableClear irq) s = .next t ∧
          t = u.modHbi fun h => { h with device := .halted, attention := u.hbi.attention ||| 0x20#7 })

/-- A STOPPING engine with no work left goes to OFF (R39): no character is formed, the driver is released, STOPPING clears; its counters,
break flag, event latch and settings are kept; a STOP LINE that waits for it completes DONE in the event (R158). A line with work left
stays (the model's choice, log entry 1). Each of these events ends with the test of the halt condition (R180) and the asking of the
ring-fetch requester (R143; its moment is the model's choice, log entry 37). -/
def Obligations.StoppingLineGoesOff : Prop :=
  ∀ (s : State) (n : LineId),
    let workless := (s.line n).stopping ≠ none ∧ (s.line n).engine = .idle ∧ (s.line n).exchange = none ∧ (s.line n).prefetched = []
    (¬workless → exec (.stoppingLineOff n) s = .next s) ∧
    (workless →
      ∃ l : Line, exec (.stoppingLineOff n) s = .next ((s.modLine n fun _ => l).deferredApply).eventEnd ∧
        l.engine = .off ∧ l.stopping = none ∧ l.rxPhase = .notForming ∧ l.driverEnable = false ∧ l.txCharacter = none ∧
        l.timers = .stopped ∧ l.exchange = none ∧ l.claim = none ∧ l.counters = (s.line n).counters ∧
        l.breakFlag = (s.line n).breakFlag ∧ l.eventJam = (s.line n).eventJam ∧ l.eventBreak = (s.line n).eventBreak ∧
        l.eventOverrun = (s.line n).eventOverrun ∧ l.config = (s.line n).config ∧ l.cycleTimer = (s.line n).cycleTimer ∧
        l.followUp = (s.line n).followUp ∧ l.prefetched = [] ∧ l.pollList = (s.line n).pollList ∧ l.share = (s.line n).share ∧
        l.rxHigh = (s.line n).rxHigh ∧
        ∀ tag, s.admin = .deferred tag (.stopLine n) →
          (s.modLine n fun _ => l).deferredApply =
            (s.modLine n fun _ => l).adminClaim (adminCompletion tag 0x03#8 .done 0 0 0 7))

/-! ### What a line receives -/

/-- A character handed over (R3), its byte assembled least-significant bit first from its eight samples. It is good when its stop bit is
high and its parity bit, none with parity none (log entry 19), satisfies the rule of R1. The engine's state says what it does: discarded in
OFF, LEAD and TRAIL; a stray character in QUIET, BACKOFF, DELIVER, COMPLETE_WAIT and IDLE (R21, R23, R33 to R35), where a candidate of a
stray frame is collected (R22); an echo in SEND (R27); in AWAIT an SOF begins the frame and any other is noise, after which a held expiry
takes effect (R29, R30). A break can follow only a character with a framing error during which the line was low throughout (R4): the
receiver then waits for the report, after another such character for a high line, after one with a high stop bit for an edge. With no
character in progress none is handed over, nor one whose stop bit, sampled at the hand-over, is not the level of RXn; a character that drops
a candidate starts none; a held expiry that an SOF drops leaves the timer marked expired (the model's choices, log entries 1, 30, 25 and
15). Each of these events ends with the test of the halt condition (R180) and the asking of the ring-fetch requester (R143; its moment is
the model's choice, log entry 37). -/
def Obligations.ReceivedCharacterMeetsTheState : Prop :=
  ∀ (s : State) (n : LineId) (value : Byte) (bits : Vector Bool 8) (parityBit stopBit : Bool),
    (∀ k : Fin 8, bits[k] = value.getLsbD k) →
    let l := s.line n
    let ones := (List.finRange 8).countP (fun k : Fin 8 => bits[k]) + (if parityBit then 1 else 0)
    let good := stopBit = true ∧
      (l.config.parity = .none ∨ (l.config.parity = .even ∧ ones % 2 = 0) ∨ (l.config.parity = .odd ∧ ones % 2 = 1))
    let up := fun k : Nat => if k < 65535 then k + 1 else 65535
    let t := s.modLine n fun m =>
      { m with rxPhase := if stopBit then .waitEdge else if m.lowSinceEdge then .lowAfterCharacter else .waitHigh }
    let stray := t.modLine n fun m => { m with counters := { m.counters with strayCharacters := up m.counters.strayCharacters } }
    let noise := t.modLine n fun m => { m with counters := { m.counters with noiseCharacters := up m.counters.noiseCharacters } }
    let run := exec (.characterReceived n bits parityBit stopBit) s
    let frame := l.candidate ++ [value]
    let complete := 5 ≤ frame.length ∧ frame.length = (frame.getD 4 0#8).toNat + 7
    let drop := fun u : State => u.modLine n fun m => { m with candidate := [], timers := { m.timers with gap := none } }
    let collect := fun u : State => u.modLine n fun m =>
      { m with candidate := frame, timers := { m.timers with gap := some m.config.interCharacterLimit } }
    (l.rxPhase ≠ .inCharacter ∨ l.rxHigh ≠ stopBit → run = .next s.eventEnd) ∧
    (l.rxPhase = .inCharacter → l.rxHigh = stopBit →
      (l.engine = .off ∨ l.engine = .lead ∨ l.engine = .trail → run = .next t.eventEnd) ∧
      (l.engine = .quiet ∨ l.engine = .backoff ∨ l.engine = .deliver ∨ l.engine = .completeWait → run = .next stray.eventEnd) ∧
      (l.engine = .idle → l.candidate = [] →
        (good → value = 0xC3#8 → run = .next (collect stray).eventEnd) ∧ (¬good ∨ value ≠ 0xC3#8 → run = .next stray.eventEnd)) ∧
      (l.engine = .idle → l.candidate ≠ [] →
        (¬good → run = .next (drop stray).eventEnd) ∧
        (good → frame.length = 5 → 64 < value.toNat → run = .next (drop stray).eventEnd) ∧
        (good → (frame.length = 5 → value.toNat ≤ 64) → ¬complete → run = .next (collect stray).eventEnd) ∧
        (good → (frame.length = 5 → value.toNat ≤ 64) → complete →
          (checkCorrect frame = true →
            run = .next (drop (stray.modLine n fun m =>
              { m with counters := { m.counters with strayFrames := up m.counters.strayFrames } })).eventEnd) ∧
          (checkCorrect frame = false → run = .next (drop stray).eventEnd))) ∧
      (l.engine = .send → l.config.echoCheck = false ∨ l.mismatch = true → run = .next t.eventEnd) ∧
      (l.engine = .send → l.config.echoCheck = true → l.mismatch = false →
        (good → l.echoPending = some value → run = .next (t.modLine n fun m => { m with echoPending := none }).eventEnd) ∧
        (¬good ∨ l.echoPending ≠ some value →
          run = .next (t.modLine n fun m =>
            { m with
              mismatch := true, echoPending := none
              counters := { m.counters with contentions := up m.counters.contentions } }).eventEnd)) ∧
      (l.engine = .await → good → value = 0xC3#8 →
        run = .next (t.modLine n fun m =>
          { m with engine := .receive, received := [0xC3#8]
                   timers := { m.timers with gap := some m.config.interCharacterLimit } }).eventEnd) ∧
      (l.engine = .await → ¬good ∨ value ≠ 0xC3#8 →
        (l.timers.response = .expired → run = .next (noise.failAttempt n .timeout).eventEnd) ∧
        (l.timers.response ≠ .expired → run = .next noise.eventEnd)))

/-- A frame is collected in RECEIVE (R12, R31): a framing error (a low stop bit, whose sample is RXn's level at the hand-over, log entry
30), a parity error by R1 over the sampled data bits and parity bit (none with parity none, log entry 19), a bad CONTROL at the third
character, a bad LENGTH at the fifth, and the inter-character limit without a start edge end it early, and the attempt fails with
FRAME_ERROR; with LENGTH + 7 characters it is judged. In IDLE the limit drops a stray frame's candidate (R22). With the limit not running
nothing expires (the model's choice, log entry 1). Each of these events ends with the test of the halt condition (R180) and the asking of
the ring-fetch requester (R143; its moment is the model's choice, log entry 37). -/
def Obligations.ReceivedFrameIsCollected : Prop :=
  (∀ (s : State) (n : LineId) (value : Byte) (bits : Vector Bool 8) (parityBit stopBit : Bool) (sent : Frame),
     (∀ k : Fin 8, bits[k] = value.getLsbD k) → (s.line n).rxHigh = stopBit →
     (s.line n).engine = .receive → (s.line n).rxPhase = .inCharacter → (s.line n).frame = some sent →
     let l := s.line n
     let t := s.modLine n fun m =>
       { m with rxPhase := if stopBit then .waitEdge else if m.lowSinceEdge then .lowAfterCharacter else .waitHigh }
     let ones := (List.finRange 8).countP (fun k : Fin 8 => bits[k]) + (if parityBit then 1 else 0)
     let frame := l.received ++ [value]
     let kind := (frame.getD 2 0#8).toNat % 8
     let fault := stopBit = false ∨ (l.config.parity = .even ∧ ones % 2 = 1) ∨ (l.config.parity = .odd ∧ ones % 2 = 0) ∨
       (frame.length = 3 ∧ ((kind ≠ 4 ∧ kind ≠ 6 ∧ (kind ≠ 5 ∨ sent.sync = true)) ∨ 64 ≤ value.toNat)) ∨
       (frame.length = 5 ∧ (64 < value.toNat ∨ (kind = 5 ∧ value ≠ 1#8) ∨ (kind = 6 ∧ value ≠ 0#8)))
     let complete := 5 ≤ frame.length ∧ frame.length = (frame.getD 4 0#8).toNat + 7
     let u := t.modLine n fun m =>
       { m with received := frame, timers := { m.timers with gap := some m.config.interCharacterLimit } }
     (fault → exec (.characterReceived n bits parityBit stopBit) s = .next (t.failAttempt n .frameError).eventEnd) ∧
     (¬fault → ¬complete → exec (.characterReceived n bits parityBit stopBit) s = .next u.eventEnd) ∧
     (¬fault → complete → exec (.characterReceived n bits parityBit stopBit) s = .next (u.judgeFrame n).eventEnd)) ∧
  ∀ (s : State) (n : LineId),
    ((s.line n).timers.gap = none ∨ (s.line n).rxPhase = .inCharacter →
      exec (.interCharacterLimitExpiry n) s = .next s.eventEnd) ∧
    ((s.line n).timers.gap ≠ none → (s.line n).rxPhase ≠ .inCharacter →
      ((s.line n).engine = .receive → exec (.interCharacterLimitExpiry n) s = .next (s.failAttempt n .frameError).eventEnd) ∧
      ((s.line n).engine ≠ .receive →
        exec (.interCharacterLimitExpiry n) s = .next (s.modLine n fun m =>
          { m with candidate := [], timers := { m.timers with gap := none } }).eventEnd))

/-- The receive input changes level (R3, R4, R23): a falling edge starts a character when the receiver waits for one, a rise ends a wait
and a break; in QUIET a fall stops the quiet timer and a rise starts it from the full gap; the level held changes nothing. A rise inside a
character leaves it no longer held low since its start-bit edge (R4). A break (R4, R36) is reported once, while the line is low after a
character with a framing error that held it low throughout: the flag, the counter and a LINE_EVENT with its cause; it fails the frame in
RECEIVE and drops the candidate in IDLE. In another phase no break is reported (the model's choice, log entry 1). Each of these events
ends with the test of the halt condition (R180) and the asking of the ring-fetch requester (R143; its moment is the model's choice, log
entry 37). -/
def Obligations.ReceiverFollowsItsInput : Prop :=
  (∀ (s : State) (n : LineId) (high : Bool),
     let l := s.line n
     (l.rxHigh = high → exec (.rxnLevelChange n high) s = .next s) ∧
     (l.rxHigh = false → high = true →
       exec (.rxnLevelChange n high) s = .next (s.modLine n fun m =>
         { m with
           rxHigh := true, lowSinceEdge := false
           rxPhase := if m.rxPhase = .waitHigh ∨ m.rxPhase = .lowAfterCharacter ∨ m.rxPhase = .breakHeld then .waitEdge else m.rxPhase
           timers := { m.timers with quiet := if m.engine = .quiet then some m.config.quietGap else m.timers.quiet } })) ∧
     (l.rxHigh = true → high = false →
       exec (.rxnLevelChange n high) s = .next (s.modLine n fun m =>
         { m with
           rxHigh := false, lowSinceEdge := m.rxPhase == .waitEdge
           rxPhase := if m.rxPhase = .waitEdge then .inCharacter else m.rxPhase
           timers := { m.timers with quiet := if m.engine = .quiet then none else m.timers.quiet } }))) ∧
  ∀ (s : State) (n : LineId),
    ((s.line n).rxPhase ≠ .lowAfterCharacter → exec (.breakDetected n) s = .next s.eventEnd) ∧
    ((s.line n).rxPhase = .lowAfterCharacter →
      let t := (s.modLine n fun m =>
        { m with
          rxPhase := .breakHeld, breakFlag := true, eventBreak := true
          counters := { m.counters with breaks := if m.counters.breaks < 65535 then m.counters.breaks + 1 else 65535 } }).modHbi
        fun h => { h with attention := h.attention ||| 0x08#7 }
      ((s.line n).engine = .receive → exec (.breakDetected n) s = .next (t.failAttempt n .frameError).eventEnd) ∧
      ((s.line n).engine = .idle →
        exec (.breakDetected n) s = .next (t.modLine n fun m =>
          { m with candidate := [], timers := { m.timers with gap := none } }).eventEnd) ∧
      ((s.line n).engine ≠ .receive → (s.line n).engine ≠ .idle → exec (.breakDetected n) s = .next t.eventEnd))

/-- The response timer expires (R29, R30, R32): in AWAIT with no character in progress the attempt fails with TIMEOUT; with one the expiry
is held, and a false start lets it take effect at once; in RECEIVE it is noted. A false start forms no character (R3). With no timer
running nothing expires, and with no character in progress no start is false (the model's choice, log entry 1). Each of these events ends
with the test of the halt condition (R180) and the asking of the ring-fetch requester (R143; its moment is the model's choice, log entry
37). -/
def Obligations.ResponseTimerExpires : Prop :=
  ∀ (s : State) (n : LineId),
    let l := s.line n
    let noted := s.modLine n fun m => { m with timers := { m.timers with response := .expired } }
    let t := s.modLine n fun m => { m with rxPhase := .waitEdge }
    (∀ bits, l.timers.response = .running bits →
      (l.engine = .await → l.rxPhase ≠ .inCharacter →
        exec (.responseTimerExpiry n) s = .next (s.failAttempt n .timeout).eventEnd) ∧
      (l.engine = .await → l.rxPhase = .inCharacter → exec (.responseTimerExpiry n) s = .next noted.eventEnd) ∧
      (l.engine = .receive → exec (.responseTimerExpiry n) s = .next noted.eventEnd)) ∧
    ((l.engine ≠ .await ∧ l.engine ≠ .receive) ∨ l.timers.response = .stopped ∨ l.timers.response = .expired →
      exec (.responseTimerExpiry n) s = .next s.eventEnd) ∧
    (l.rxPhase ≠ .inCharacter ∨ l.rxHigh = false → exec (.falseStart n) s = .next s.eventEnd) ∧
    (l.rxPhase = .inCharacter → l.rxHigh = true →
      (l.engine = .await → l.timers.response = .expired → exec (.falseStart n) s = .next (t.failAttempt n .timeout).eventEnd) ∧
      (l.engine ≠ .await ∨ l.timers.response ≠ .expired → exec (.falseStart n) s = .next t.eventEnd))

/-- Every frame the PL4 sends is complete with a correct check, and carries its fields in the order of R5 with the CONTROL of R7. A
complete response is judged by the tests of R13 in their order: its check, its direction and address, its function, and, but for BUSY, its
toggle. The check of R10 over the nine bytes of its reference is 29B1h. -/
def Obligations.FramesAreBuiltAndJudged : Prop :=
  (∀ (f : Frame) (address : BitVec 7), f.payload.length ≤ 64 →
     let c := f.characters address
     c.length = f.payload.length + 7 ∧ frameComplete c = true ∧ checkCorrect c = true ∧ framePayload c = f.payload ∧
       c.getD 0 0#8 = 0xC3#8 ∧ (c.getD 1 0#8).toNat = address.toNat ∧ c.getD 3 0#8 = f.function ∧
       (c.getD 4 0#8).toNat = f.payload.length ∧
       (c.getD 2 0#8).toNat = (if f.sync then 1 else 0) + (if f.toggle then 8 else 0) + (if f.more then 16 else 0)) ∧
  (∀ (address : BitVec 7) (sent : Frame) (a control function length hi lo : Byte) (payload : List Byte), length.toNat = payload.length →
     let covered := a :: control :: function :: length :: payload
     let verdict := judge (0xC3#8 :: (covered ++ [hi, lo])) address sent
     let kind := control.toNat % 8
     (hi ++ lo ≠ crc16 covered → verdict = .failed .checkError) ∧
     (hi ++ lo = crc16 covered →
       (a.toNat ≠ 128 + address.toNat → verdict = .failed .frameError) ∧
       (a.toNat = 128 + address.toNat → function ≠ sent.function → verdict = .failed .frameError) ∧
       (a.toNat = 128 + address.toNat → function = sent.function →
         (kind = 6 → verdict = .busy) ∧
         (kind ≠ 6 → control[3] ≠ sent.toggle → verdict = .stale) ∧
         (kind = 5 → control[3] = sent.toggle → verdict = .refuse ((covered ++ [hi, lo]).getD 4 0#8) control[5]) ∧
         (kind ≠ 5 → kind ≠ 6 → control[3] = sent.toggle → verdict = .reply payload control[4] control[5])))) ∧
  crc16 [0x31#8, 0x32#8, 0x33#8, 0x34#8, 0x35#8, 0x36#8, 0x37#8, 0x38#8, 0x39#8] = 0x29B1#16

/-! ### Attempts, judgements and transmission -/

/-- An attempt fails (R46, R47, R49): its kind is the last, and the first when there was none; an attempt not yet counted is counted, the
total saturating at 15; while the attempts used are below the budget, which is the retry limit plus 1, the engine goes to QUIET with the
frame already prepared and its toggle unchanged; at the budget the exchange ends with the kind's status and the first kind's code. The jam
limit (R24) fails the attempt with CONTENTION, counts a jam and a contention, and latches a LINE_EVENT with cause jam. Outside QUIET no
jam limit expires (the model's choice, log entry 1). Each of these events ends with the test of the halt condition (R180) and the asking
of the ring-fetch requester (R143; its moment is the model's choice, log entry 37). -/
def Obligations.AttemptsDrawOnABudget : Prop :=
  (∀ (s : State) (n : LineId) (kind : FailureKind) (x : Exchange), (s.line n).exchange = some x →
     let l := s.line n
     let used := if l.counted then x.attemptsUsed else x.attemptsUsed + 1
     let total := if l.counted then x.attemptsTotal else if x.attemptsTotal < 15 then x.attemptsTotal + 1 else 15
     let first := match x.firstFailure with
       | some k => k
       | none => kind
     let y := { x with attemptsUsed := used, attemptsTotal := total, lastFailure := some kind, firstFailure := some first }
     (used ≤ x.retryLimit →
       s.failAttempt n kind = s.modLine n fun m =>
         { m with
           engine := .quiet, exchange := some y, resend := false, counted := false, sentCount := 0, mismatch := false
           received := [], candidate := [], txCharacter := none, echoPending := none
           timers := { Timers.stopped with
             quiet := if m.rxHigh then some m.config.quietGap else none
             jam := some (255 * m.config.characterBits) } }) ∧
     (x.retryLimit < used →
       s.failAttempt n kind = (s.modLine n fun m => { m with exchange := some y }).endExchange n
         (match kind with
          | .timeout => Status.timeout | .checkError => .checkError | .frameError => .frameError | .contention => .contention)
         (match first with
          | .timeout => 2#8 | .checkError => 3#8 | .frameError => 4#8 | .contention => 13#8))) ∧
  ∀ (s : State) (n : LineId),
    ((s.line n).engine ≠ .quiet ∨ (s.line n).timers.jam = none → exec (.jamLimitExpiry n) s = .next s.eventEnd) ∧
    ((s.line n).engine = .quiet → (s.line n).timers.jam ≠ none →
      let up := fun k : Nat => if k < 65535 then k + 1 else 65535
      let t := (s.modLine n fun m =>
        { m with eventJam := true
                 counters := { m.counters with jams := up m.counters.jams, contentions := up m.counters.contentions } }).modHbi
        fun h => { h with attention := h.attention ||| 0x08#7 }
      exec (.jamLimitExpiry n) s = .next (t.failAttempt n .contention).eventEnd)

/-- What the engine does with the judgement of a complete frame (R31, R32, R49, R50, R52, R54, R57 to R60, R77): a failure fails the
attempt; STALE goes back to AWAIT or, after the expiry, fails with TIMEOUT; BUSY goes to BACKOFF within the busy limit and ends BUSY_LIMIT
beyond it; REFUSE flips the toggle and ends REFUSED with its reason; a REPLY to a SYNC clears toggle and resync flag; a REPLY to a REQUEST
raises segments done, flips the toggle, sets or clears the event-pending flag, and its payload goes to the exchange's destination. That a
held expiry dropped by the SOF still counts as expired at a STALE judgement, and that a REFUSE with event-pending 0 leaves the flag, are
the model's choices (log entries 15 and 17). -/
def Obligations.JudgementDecidesTheExchange : Prop :=
  ∀ (s : State) (n : LineId) (x : Exchange) (sent : Frame), (s.line n).exchange = some x → (s.line n).frame = some sent →
    let l := s.line n
    let put := fun (u : State) (y : Exchange) => u.modLine n fun m => { m with exchange := some y }
    s.judgeFrame n = s.actOn n x sent (judge l.received x.address sent) ∧
    (∀ kind, s.actOn n x sent (.failed kind) = s.failAttempt n kind) ∧
    (l.timers.response = .expired → s.actOn n x sent .stale = s.failAttempt n .timeout) ∧
    (l.timers.response ≠ .expired →
      s.actOn n x sent .stale = s.modLine n fun m =>
        { m with engine := .await, received := [], timers := { m.timers with gap := none } }) ∧
    (x.busyCount + 1 ≤ l.config.busyLimit →
      s.actOn n x sent .busy = s.modLine n fun m =>
        { m with
          engine := .backoff, exchange := some { x with busyCount := x.busyCount + 1 }, resend := true, counted := false
          received := [], candidate := [], txCharacter := none, echoPending := none
          timers := { Timers.stopped with backoff := some (m.config.busyBackoff * m.config.characterBits) } }) ∧
    (l.config.busyLimit < x.busyCount + 1 →
      s.actOn n x sent .busy = (put s { x with busyCount := x.busyCount + 1 }).endExchange n .busyLimit 0) ∧
    ∀ k, x.station = some k →
      (∀ reason ep, s.actOn n x sent (.refuse reason ep) = (s.modStation k fun st =>
        { st with toggle := !st.toggle, eventPending := ep || st.eventPending }).endExchange n .refused reason) ∧
      ∀ (payload : List Byte) (more ep : Bool),
        let act := s.actOn n x sent (.reply payload more ep)
        (sent.sync = true →
          let t := s.modStation k fun st => { st with toggle := false, resync := false }
          (x.source = .probe → act = t.endExchange n .ok 0) ∧ (x.source ≠ .probe → act = t.prepareRequest n)) ∧
        (sent.sync = false →
          let y := { x with segmentsDone := x.segmentsDone + 1 }
          let t := (put s y).modStation k fun st => { st with toggle := !st.toggle, eventPending := ep }
          (x.destination = .none → x.bulkWrite = true →
            let z := { y with delivered := x.delivered + sent.payload.length, residue := x.residue - sent.payload.length }
            (sent.more = true → act = (put t { z with attemptsUsed := 0, firstFailure := none }).prepareRequest n) ∧
            (sent.more = false → act = (put t z).endExchange n .ok 0)) ∧
          (x.destination = .pollSlot → act = (put t { y with reply := some payload }).endExchange n .ok 0) ∧
          (x.destination = .staging →
            act = (if payload = [] then t else
              t.setStaging n (some { payload := payload, address := x.address })).endExchange n .ok 0) ∧
          (∀ address capacity, x.destination = .buffer address capacity →
            let room := capacity - x.delivered
            let z := { y with residue := x.residue + payload.length }
            let next : AfterWrite :=
              if room < payload.length then .finish .truncated
              else if x.bulkRead = false ∨ more = false then .finish .ok
              else if x.segmentsDone + 1 = x.maxSegments then .finish .segmentLimit
              else .continueRead
            (payload.take room ≠ [] →
              act = (put t z).modLine n fun m =>
                { m with
                  engine := .deliver, timers := .stopped, received := [], candidate := [], txCharacter := none, echoPending := none
                  job := some (.responseWrite (address + BitVec.ofNat 32 x.delivered) (payload.take room) next) }) ∧
            (payload.take room = [] →
              (∀ status, next = .finish status → act = (put t z).endExchange n status 0) ∧
              (next = .continueRead →
                act = (put t { z with attemptsUsed := 0, firstFailure := none }).prepareRequest n))))

/-- Before it sends, the engine waits (R23, R25, R33): the quiet timer's expiry takes it to LEAD, with a lead delay of 0 on to SEND, where
the first character begins, the exchange has a frame sent (R44) and the attempt is counted unless it resends after BUSY (R46); the backoff
timer's takes it to QUIET with the frame to resend. With the timer not running nothing expires (the model's choice, log entry 1). -/
def Obligations.LineWaitsBeforeItSends : Prop :=
  ∀ (s : State) (n : LineId),
    let l := s.line n
    (∀ x f, l.exchange = some x → l.frame = some f →
      let lead := s.modLine n fun m =>
        { m with
          engine := .lead, received := [], candidate := [], txCharacter := none, echoPending := none
          timers := { Timers.stopped with lead := some m.config.leadDelay } }
      let send := s.modLine n fun m =>
        { m with
          engine := .send, timers := .stopped, received := [], candidate := [], mismatch := false, sentCount := 0
          counted := m.counted || !m.resend, txCharacter := some 0xC3#8
          echoPending := if m.config.echoCheck then some 0xC3#8 else none
          exchange := some
            { x with
              frameSent := true
              attemptsUsed := if m.resend then x.attemptsUsed else x.attemptsUsed + 1
              attemptsTotal := if m.resend then x.attemptsTotal else if x.attemptsTotal < 15 then x.attemptsTotal + 1 else 15 } }
      (l.engine = .quiet → l.timers.quiet ≠ none →
        exec (.quietTimerExpiry n) s = .next (if l.config.leadDelay = 0 then send else lead)) ∧
      (l.engine = .lead → l.timers.lead ≠ none → exec (.leadTimerExpiry n) s = .next send)) ∧
    (l.engine = .backoff → l.timers.backoff ≠ none →
      exec (.backoffTimerExpiry n) s = .next (s.modLine n fun m =>
        { m with
          engine := .quiet, received := [], candidate := [], txCharacter := none, echoPending := none
          timers := { Timers.stopped with
            quiet := if m.rxHigh then some m.config.quietGap else none
            jam := some (255 * m.config.characterBits) } })) ∧
    (l.engine ≠ .quiet ∨ l.timers.quiet = none → exec (.quietTimerExpiry n) s = .next s) ∧
    (l.engine ≠ .lead ∨ l.timers.lead = none → exec (.leadTimerExpiry n) s = .next s) ∧
    (l.engine ≠ .backoff ∨ l.timers.backoff = none → exec (.backoffTimerExpiry n) s = .next s)

/-- DEn is asserted in LEAD, SEND and TRAIL and released in every other state (R19). TXn during a character of 10, 11 or 12 bits (R1): a low
start bit, the data bits least-significant first, the parity bit that makes the ones even or odd, high stop bits; TXn is high with no
character in transmission. The characters of the frame go back to back (R26) until the last, a mismatch or a cut (R27, R41), and TRAIL
follows; a final stop bit with no echo is a mismatch. At the end of TRAIL the first row of R28 that holds: a cut exchange ends ABORTED, a
mismatch fails the attempt with CONTENTION, a broadcast ends OK_SENT, and any other frame awaits its response with the response timer
started (R29). With no character in transmission, or no trail timer, nothing ends (the model's choice, log entry 1). Each of these events
ends with the test of the halt condition (R180) and the asking of the ring-fetch requester (R143; its moment is the model's choice, log
entry 37). -/
def Obligations.FrameIsSentCharacterByCharacter : Prop :=
  (∀ l : Line,
     (l.driverEnable = true ↔ l.engine = .lead ∨ l.engine = .send ∨ l.engine = .trail) ∧
     (l.txCharacter = none → ∀ k, l.txLevel k = true) ∧
     l.config.characterBits = 9 + (if l.config.parity = .none then 0 else 1) + l.config.stopBits ∧
     ∀ b : Byte, l.txCharacter = some b →
       let ones := (List.finRange 8).countP fun k : Fin 8 => b.getLsbD k
       l.txBits.length = l.config.characterBits ∧ l.txLevel 0 = false ∧ (∀ k : Fin 8, l.txLevel (k.val + 1) = b.getLsbD k) ∧
       (l.config.parity = .none → ∀ k, 9 ≤ k → l.txLevel k = true) ∧
       (l.config.parity = .even → (ones + if l.txLevel 9 then 1 else 0) % 2 = 0) ∧
       (l.config.parity = .odd → (ones + if l.txLevel 9 then 1 else 0) % 2 = 1) ∧
       (l.config.parity ≠ .none → ∀ k, 10 ≤ k → l.txLevel k = true)) ∧
  ∀ (s : State) (n : LineId) (x : Exchange) (f : Frame), (s.line n).exchange = some x → (s.line n).frame = some f →
    let l := s.line n
    let count := (f.characters x.address).length
    let done := l.sentCount + 1
    let trail := fun u : State =>
      let v := u.modLine n fun m =>
        { m with
          engine := .trail, received := [], candidate := [], txCharacter := none, echoPending := none
          timers := { Timers.stopped with trail := some m.config.trailDelay } }
      if l.config.trailDelay = 0 then v.trailEnd n else v
    let stopped := s.modLine n fun m => { m with sentCount := done }
    let run := exec (.characterSent n) s
    (l.engine ≠ .send ∨ l.txCharacter = none → run = .next s.eventEnd) ∧
    (l.engine = .send → l.txCharacter ≠ none →
      (l.echoPending = none → l.mismatch = false → l.cutting = false → done < count →
        run = .next (s.modLine n fun m =>
          { m with
            sentCount := done, txCharacter := (f.characters x.address)[done]?
            echoPending := if m.config.echoCheck then (f.characters x.address)[done]? else none }).eventEnd) ∧
      (l.echoPending = none → l.mismatch = true ∨ l.cutting = true ∨ count ≤ done → run = .next (trail stopped).eventEnd) ∧
      (l.echoPending ≠ none →
        run = .next (trail (stopped.modLine n fun m =>
          { m with
            mismatch := true, echoPending := none
            counters := { m.counters with
              contentions := if m.counters.contentions < 65535 then m.counters.contentions + 1 else 65535 } })).eventEnd)) ∧
    (l.engine ≠ .trail ∨ l.timers.trail = none → exec (.trailTimerExpiry n) s = .next s.eventEnd) ∧
    (l.engine = .trail → l.timers.trail ≠ none →
      let last := exec (.trailTimerExpiry n) s
      last = .next (s.trailEnd n).eventEnd ∧
      (l.cutting = true → s.hbi.device ≠ .faulted → last = .next (s.endExchange n .aborted 0).eventEnd) ∧
      (l.cutting = true → s.hbi.device = .faulted → last = .next (s.faultEnd n).eventEnd) ∧
      (l.cutting = false → l.mismatch = true → last = .next (s.failAttempt n .contention).eventEnd) ∧
      (l.cutting = false → l.mismatch = false → x.source = .broadcast → last = .next (s.endExchange n .okSent 0).eventEnd) ∧
      (l.cutting = false → l.mismatch = false → x.source ≠ .broadcast →
        last = .next (s.modLine n fun m =>
          { m with
            engine := .await, received := [], candidate := [], txCharacter := none, echoPending := none
            timers := { Timers.stopped with response := .running (x.responseTimeout * m.config.characterBits) } }).eventEnd))

/-! ### The exchange end, health and reports -/

/-- Health accounting by the class of the ending status (R48, R55, R70 to R74): a success brings a station ONLINE, with a notice from
PROBING and OFFLINE; a failure counts and at the threshold takes it OFFLINE with failures equal to the threshold, reprobe counter 0 and a
notice; a neutral end leaves state and failures. The exchange counters saturate, and the resync flag is set after a frame sent as R55
lists. -/
def Obligations.HealthFollowsItsTables : Prop :=
  ∀ (st : Station) (status : Status) (frameSent : Bool),
    let t := st.exchangeEnd status frameSent
    let up := fun k : Nat => if k < 65535 then k + 1 else 65535
    let offline := { st with
      state := .offline, failures := st.threshold, reprobe := 0, notice := true, failed := up st.failed
      resync := frameSent || st.resync }
    (status ∈ [Status.ok, .refused, .truncated, .segmentLimit] →
      (st.state = .probing → t = { st with state := .online, failures := 0, notice := true, good := up st.good }) ∧
      (st.state = .online → t = { st with failures := 0, good := up st.good }) ∧
      (st.state = .suspect → t = { st with state := .online, failures := 0, good := up st.good }) ∧
      (st.state = .offline → t = { st with state := .online, failures := 0, reprobe := 0, notice := true, good := up st.good })) ∧
    (status ∈ [Status.timeout, .checkError, .frameError] →
      (st.state = .probing ∨ st.state = .suspect →
        (st.failures + 1 = st.threshold → t = offline) ∧
        (st.failures + 1 ≠ st.threshold →
          t = { st with failures := st.failures + 1, failed := up st.failed, resync := frameSent || st.resync })) ∧
      (st.state = .online →
        (st.threshold = 1 → t = offline) ∧
        (st.threshold ≠ 1 →
          t = { st with state := .suspect, failures := 1, failed := up st.failed, resync := frameSent || st.resync })) ∧
      (st.state = .offline →
        t = { st with failures := st.threshold, failed := up st.failed, resync := frameSent || st.resync })) ∧
    (status ∈ [Status.contention, .busyLimit, .aborted] → t = { st with resync := frameSent || st.resync }) ∧
    (status = .busError → t = st)

/-- The exchange end (R65): step 1 at the station, whose state after it is the one the record shows (a broadcast shows 7), step 2 by the
source, with the EVENT_FETCH offer of R111, step 3 the claim of R35 with the fields R65 gives, granted and on to IDLE or waiting in
COMPLETE_WAIT. An offer is accepted while the line is not STOPPING, the device is RUNNING, the follow-up queue has room and no entry for the
station, and the Capture Unit admits it; declined, it changes nothing. At the end of an EVENT_FETCH a SET CAPTURE that waits applies before
the offer (the model's choice, log entry 22). Leaving its exchange, the engine clears the busy flag (R35) and settles its poll entry (R101).
It goes to IDLE so: the exchange is left, the engine holds nothing in progress, a deferred command whose condition then holds applies (R87,
R107), and a STOPPING line completes its prefetched requests (R39) while on another the arbiter makes its choice (R113). That order is the
model's choice (log entry 26). The choice waits for a cycle start that comes together with the entry to IDLE when the entry left becomes DUE
(R97): one that stands next in the queue of commands, its timer running (the model's choice, log entry 40). -/
def Obligations.ExchangeEndRunsItsSteps : Prop :=
  (∀ (s : State) (n : LineId) (x : Exchange) (status : Status) (detail : Byte), (s.line n).exchange = some x →
     let code := match x.station with
       | some k => ((s.station k).exchangeEnd status x.frameSent).state.code
       | none => 7#3
     let y := { x with status := some status, detail := detail, stationState := code }
     let a := s.modLine n fun m =>
       { m with
         exchange := some y, job := none, timers := .stopped, received := [], candidate := [], txCharacter := none, echoPending := none }
     let claim := fun (r : Request) (stamp : Half) =>
       ({ tag := r.tag, status := status, detail := detail, kind := .request, stationState := code, origin := BitVec.ofNat 8 n.val
          attempts := x.attemptsTotal, segments := x.segmentsDone, delivered := x.delivered, residue := x.residue
          stamp := stamp } : Completion)
     (∀ k, x.station = some k →
       let b := (a.modStation k fun st => st.exchangeEnd status x.frameSent).postNotices
       let o := b.offerFetch n k
       (∀ r, x.origin = .request r →
         s.endExchange n status detail = o.endClaim n (claim r ((s.line n).counters.cycle.setWidth 16))) ∧
       (∀ j, x.origin = .followUp j → x.source ≠ .eventFetch → s.endExchange n status detail = o.enterIdle n) ∧
       (∀ j, x.origin = .followUp j → x.source = .eventFetch →
         s.endExchange n status detail =
           (((b.handOver n (b.capture.staging[n]).isSome).deferredApply).offerFetch n k).enterIdle n) ∧
       (∀ id, x.origin = .poll id → (s.poll id).slotFault = true → s.endExchange n status detail = b.pollReport n id y) ∧
       (∀ id, x.origin = .poll id → (s.poll id).slotFault = false →
         let fits := ∀ payload, x.reply = some payload → payload.length ≤ (s.poll id).capacity
         ∃ wrote : Status,
           s.endExchange n status detail =
             (b.modPoll id fun p => { p with generation := p.generation + 1 }).modLine n (fun m =>
               { m with engine := .deliver
                        job := some (.slotWrite .oddGeneration wrote ((x.reply.getD []).take (s.poll id).capacity) 0 0) }) ∧
           (x.reply = none → wrote = status) ∧ (x.reply ≠ none → fits → wrote = .ok) ∧ (¬fits → wrote = .truncated))) ∧
     (∀ r, x.station = none → x.origin = .request r →
       s.endExchange n status detail = a.endClaim n (claim r ((s.line n).counters.cycle.setWidth 16)))) ∧
  (∀ (s : State) (n : LineId) (k : SlotId),
     let l := s.line n
     let accepted := (s.station k).eventPending = true ∧ (s.station k).captureEnable = true ∧ l.stopping = none ∧
       s.hbi.device = .running ∧ (∀ f ∈ l.followUp, f.slot ≠ k) ∧ l.followUp.length < 8 ∧ s.capture.admits = true
     (accepted →
       s.offerFetch n k = s.reserve.modLine n fun m => { m with followUp := m.followUp ++ [{ kind := .eventFetch, slot := k }] }) ∧
     (¬accepted → s.offerFetch n k = s)) ∧
  (∀ (s : State) (n : LineId) (c : Completion),
     (s.writer.holding.length < 16 → s.hbi.device ≠ .faulted →
       s.endClaim n c =
         (s.modWriter fun w => { w with holding := w.holding ++ [c], pointer := Fin.ofNat 7 (n.val + 1) }).enterIdle n) ∧
     (16 ≤ s.writer.holding.length ∨ s.hbi.device = .faulted →
       s.endClaim n c = s.modLine n fun m =>
         { m with
           engine := .completeWait, claim := some c, job := none, cutting := false
           timers := .stopped, received := [], candidate := [], txCharacter := none, echoPending := none })) ∧
  (∀ (s : State) (n : LineId) (x : Exchange) (k : SlotId), (s.line n).exchange = some x → x.station = some k →
    let t := s.modStation k fun st => { st with busy := false }
    (∀ r, x.origin = .request r → s.leaveExchange n = t) ∧
    (∀ j, x.origin = .followUp j → s.leaveExchange n = t) ∧
    (∀ id, x.origin = .poll id → (s.poll id).state = .inFlight →
      s.leaveExchange n = t.modPoll id fun p => { p with state := if p.dueAgain then .due else .idle, dueAgain := false }) ∧
    (∀ id, x.origin = .poll id → (s.poll id).state = .deleting →
      s.leaveExchange n = (t.modLine (s.poll id).line fun m => { m with pollList := m.pollList.filter (· != id) }).modPoll id
        fun _ => Poll.free)) ∧
  ∀ (s : State) (n : LineId),
    ((s.line n).exchange = none → s.leaveExchange n = s) ∧
    (∀ x r, (s.line n).exchange = some x → x.station = none → x.origin = .request r → s.leaveExchange n = s) ∧
    let t := ((s.leaveExchange n).modLine n fun m =>
      { m with
        engine := .idle, exchange := none, frame := none, claim := none, job := none, cutting := false, resend := false, counted := false
        sentCount := 0, mismatch := false, timers := .stopped, received := [], candidate := [], txCharacter := none
        echoPending := none }).deferredApply
    let lost := (∃ x id, (s.line n).exchange = some x ∧ x.origin = .poll id ∧ (s.poll id).state = .inFlight ∧
        (s.poll id).dueAgain = true) ∧
      (∃ rest, t.pending = .cycleStart n :: rest) ∧ ∃ p, (t.line n).cycleTimer = .running p
    ((t.line n).stopping ≠ none → s.enterIdle n = t.abortPrefetched n) ∧
    ((t.line n).stopping = none → lost → s.enterIdle n = t) ∧
    ((t.line n).stopping = none → ¬lost → s.enterIdle n = t.arbiterChoice n)

/-- The report of a POLL exchange (R104 to R106): the decision by the entry's mode from its last status and last signature, both of which
are then brought up to date; a report is claimed with the fields of R106, under a slot fault with BUS_ERROR and the line-side status as its
detail; with none the engine goes to IDLE. The station state is the one after step 1, which the exchange keeps through its delivery. An
exchange cut during its delivery is ABORTED here, also for the last status kept when a slot write then fails (the model's choice, log entry
31). -/
def Obligations.PollReportIsDecided : Prop :=
  ∀ (s : State) (n : LineId) (id : PollId) (x : Exchange) (status : Status), x.status = some status →
    let p := s.poll id
    let cut := (s.line n).cutting
    let size := (x.reply.getD []).length
    let final := if cut then Status.aborted else
      match x.reply with
      | some payload => if payload.length ≤ p.capacity then .ok else .truncated
      | none => status
    let reported := p.slotFault = true ∨ p.mode = .always ∨ (p.mode = .onError ∧ final ≠ .ok) ∨
      (p.mode = .onChange ∧
        (p.lastStatus ≠ some final ∨ ∃ payload, x.reply = some payload ∧ p.lastSignature ≠ some (crc16 payload)))
    let base := s.modPoll id fun q =>
      { q with
        lastStatus := some final
        lastSignature := match x.reply with
          | some payload => some (crc16 payload)
          | none => q.lastSignature }
    let t := match x.station with
      | some k => base.offerFetch n k
      | none => base
    (¬reported → s.pollReport n id x = t.enterIdle n) ∧
    (reported →
      ∃ c : Completion, s.pollReport n id x = t.endClaim n c ∧ c.tag = BitVec.ofNat 32 id.val ∧
        c.kind = .poll ∧ c.origin = BitVec.ofNat 8 id.val ∧ c.attempts = x.attemptsTotal ∧ c.segments = x.segmentsDone ∧
        c.stamp = (s.line n).counters.cycle.setWidth 16 ∧
        c.stationState = x.stationState ∧
        (p.slotFault = true → c.status = .busError ∧ c.detail = status.code ∧ c.delivered = 0 ∧ c.residue = size) ∧
        (p.slotFault = false →
          c.status = final ∧ c.detail = (if cut then 0#8 else x.detail) ∧ c.delivered = min size p.capacity ∧
            c.residue = size - p.capacity))

/-- The 16 bytes of a completion record (R194) with the codes of R149 and R150; two completions within the widths of R149 that give the
same bytes are the same completion with the same phase. -/
def Obligations.CompletionRecordIsLaidOut : Prop :=
  (∀ (c : Completion) (phase : Bool), c.attempts < 16 → c.segments < 128 → c.delivered < 65536 → c.residue < 65536 →
     let byte := fun k : Nat => ((c.bytes phase).getD k 0#8).toNat
     (c.bytes phase).length = 16 ∧
       byte 0 + 256 * byte 1 + 65536 * byte 2 + 16777216 * byte 3 = c.tag.toNat ∧ byte 4 = c.status.code.toNat ∧
       byte 5 = c.detail.toNat ∧ byte 6 = c.kind.code.toNat + 4 * c.stationState.toNat + (if phase then 128 else 0) ∧
       byte 7 = c.origin.toNat ∧ byte 8 + 256 * byte 9 = c.attempts + 16 * c.segments ∧ byte 10 + 256 * byte 11 = c.delivered ∧
       byte 12 + 256 * byte 13 = c.residue ∧ byte 14 + 256 * byte 15 = c.stamp.toNat) ∧
  (∀ (c d : Completion) (p q : Bool), c.attempts < 16 → c.segments < 128 → c.delivered < 65536 → c.residue < 65536 →
     d.attempts < 16 → d.segments < 128 → d.delivered < 65536 → d.residue < 65536 → c.bytes p = d.bytes q → c = d ∧ p = q) ∧
  [Status.ok, .okSent, .timeout, .checkError, .frameError, .refused, .busyLimit, .stationOffline, .stationHeld, .noStation, .truncated,
   .busError, .aborted, .contention, .malformed, .segmentLimit, .overrun, .done, .badCommand, .badArgument, .noSpace, .inUse, .notFound,
   .wrongState, .duplicateAddress, .adminBusError, .stationNotice].map Status.code =
    [0#8, 1, 2, 3, 4, 5, 6, 7, 8, 9, 10, 11, 12, 13, 14, 15, 16, 32, 33, 34, 35, 36, 37, 38, 39, 40, 48] ∧
  [StationState.absent, .probing, .online, .suspect, .offline, .held].map StationState.code = [0#3, 1, 2, 3, 4, 5] ∧
  [CompletionKind.request, .admin, .poll, .notice].map CompletionKind.code = [0#2, 1, 2, 3]

/-! ### The cycle start and the arbiter -/

/-- A cycle start (R94, R96 to R98, R75): the number rises and the timer restarts from the full period; every entry still DUE is overrun and
becomes IDLE; the entries due in the new cycle are marked, and an entry in flight with its due-again flag set is overrun; each overrun
counts in its entry and is offered as a report in modes ALWAYS and ON_ERROR, dropped when the holding queue is full; the line counts one and
latches its event. Then the OFFLINE stations' reprobe counters advance in slot order, with their PROBE offers (R112), and the arbiter's
choice is made afresh (R99, R113), once and after the last offer (the model's choice, log entry 39); with no work it changes nothing. An
exchange end and a cycle start that come together give the same outcome in both orders (R97): the entry whose poll is lost is overrun once,
the line counts one overrun, and the entry is DUE again. The cycle start of a START LINE (R161), which sets number and timer itself, and
that of a return to RUNNING (R95, R118) do the same work over the slots 0 to 127, and the arbiter chooses after it when an entry is DUE or a
PROBE has joined. An offer for a station whose PROBE stands in a full queue counts as served (the model's choice, log entry 32), and a
counter left at or above an interval that MODIFY STATION has lowered does not advance before its offer (the model's choice, log entry 36). A
timer that does not run gives no cycle start (the model's choice, log entry 1). The ring-fetch requester may then ask (log entry 37). -/
def Obligations.CycleStartMarksAndOverruns : Prop :=
  (∀ (s : State) (n : LineId),
     ((∀ p, (s.line n).cycleTimer ≠ .running p) → exec (.cycleStart n) s = .next s) ∧
     (∀ p, (s.line n).cycleTimer = .running p →
       let a := s.modLine n fun m =>
         { m with counters := { m.counters with cycle := m.counters.cycle + 1 }, cycleTimer := .running m.config.cyclePeriod }
       let b := allSlots.foldl (State.reprobeSlot n) (a.settleCycle n)
       exec (.cycleStart n) s = .next (b.arbiterChoice n).askFetch ∧
       (b.nextWork n = none → exec (.cycleStart n) s = .next b.askFetch))) ∧
  (∀ (s : State) (n : LineId), (s.line n).pollList.Nodup → s.hbi.device ≠ .faulted →
     let l := s.line n
     let t := s.settleCycle n
     let up := fun k : Nat => if k < 65535 then k + 1 else 65535
     let due := fun id : PollId => decide (l.counters.cycle.toNat % (s.poll id).divisor = (s.poll id).phase)
     let left := fun id : PollId => decide ((s.poll id).state = .due)
     let again := fun id : PollId => decide ((s.poll id).state = .inFlight) && (s.poll id).dueAgain && due id
     let reports := ((l.pollList.filter left ++ l.pollList.filter again).filter fun id =>
         decide ((s.poll id).mode = .always ∨ (s.poll id).mode = .onError)).map fun id =>
       ({ tag := BitVec.ofNat 32 id.val, status := .overrun, detail := BitVec.ofNat 8 (min (up (s.poll id).skipped) 255)
          kind := .poll, stationState := (s.station (s.poll id).station).state.code, origin := BitVec.ofNat 8 id.val
          attempts := 0, segments := 0, delivered := 0, residue := 0, stamp := l.counters.cycle.setWidth 16 } : Completion)
     (∀ id, id ∉ l.pollList → t.poll id = s.poll id) ∧
     (∀ id, id ∈ l.pollList →
       t.poll id =
         { s.poll id with
           state := match (s.poll id).state with
             | .idle | .due => if due id then .due else .idle
             | other => other
           skipped := if left id || again id then up (s.poll id).skipped else (s.poll id).skipped
           dueAgain := (s.poll id).dueAgain || (decide ((s.poll id).state = .inFlight) && due id) }) ∧
     t.writer = { s.writer with holding := s.writer.holding ++ reports.take (16 - s.writer.holding.length) } ∧
     (l.pollList.any (fun id => left id || again id) = true →
       t.line n = { l with eventOverrun := true, counters := { l.counters with overruns := up l.counters.overruns } } ∧
         t.hbi = { s.hbi with attention := s.hbi.attention ||| 0x08#7 }) ∧
     (l.pollList.any (fun id => left id || again id) = false → t.line n = l ∧ t.hbi = s.hbi)) ∧
  (∀ (s : State) (n : LineId) (x : Exchange) (id : PollId), (s.line n).exchange = some x → x.origin = .poll id →
     (s.line n).pollList.Nodup → id ∈ (s.line n).pollList → s.hbi.device ≠ .faulted → (s.poll id).state = .inFlight →
     (s.poll id).dueAgain = true → (s.line n).counters.cycle.toNat % (s.poll id).divisor = (s.poll id).phase →
     let up := fun k : Nat => if k < 65535 then k + 1 else 65535
     ∀ t ∈ [(s.leaveExchange n).settleCycle n, (s.settleCycle n).leaveExchange n],
       t.poll id = { s.poll id with state := .due, dueAgain := false, skipped := up (s.poll id).skipped } ∧
         (t.line n).counters.overruns = up (s.line n).counters.overruns) ∧
  (∀ (s : State) (n : LineId),
     s.nextCycle n = (s.modLine n fun m =>
       { m with
         counters := { m.counters with cycle := m.counters.cycle + 1 }, cycleTimer := .running m.config.cyclePeriod }).runCycle n ∧
     let b := allSlots.foldl (State.reprobeSlot n) (s.settleCycle n)
     let chooses := (∃ id ∈ (b.line n).pollList, (b.poll id).state = .due) ∨
       (s.line n).followUp.length < (b.line n).followUp.length
     (chooses → s.runCycle n = b.arbiterChoice n) ∧ (¬chooses → s.runCycle n = b)) ∧
  allSlots = List.finRange 128 ∧
  ∀ (s : State) (n : LineId) (k : SlotId),
    let st := s.station k
    let queue := (s.line n).followUp
    let count := if st.reprobe < st.reprobeInterval then st.reprobe + 1 else st.reprobe
    let held := fun c : Nat => s.modStation k fun m => { m with reprobe := c }
    (st.state ≠ .offline ∨ st.line ≠ n → s.reprobeSlot n k = s) ∧
    (st.state = .offline → st.line = n →
      (count < st.reprobeInterval → s.reprobeSlot n k = held count) ∧
      (st.reprobeInterval ≤ count →
        ((∃ f ∈ queue, f.slot = k ∧ f.kind = .probe) → s.reprobeSlot n k = held 0) ∧
        ((∀ f ∈ queue, f.slot ≠ k) → queue.length < 8 →
          s.reprobeSlot n k = (held 0).modLine n fun m => { m with followUp := m.followUp ++ [{ kind := .probe, slot := k }] }) ∧
        ((∀ f ∈ queue, ¬(f.slot = k ∧ f.kind = .probe)) → 8 ≤ queue.length ∨ (∃ f ∈ queue, f.slot = k) →
          s.reprobeSlot n k = held count)))

/-- The arbiter takes the first row of R114 that applies. It chooses while its engine is IDLE, its line not STOPPING and the device
RUNNING (R113), and after each choice chooses again from the state then reached (R116). -/
def Obligations.ArbiterChoosesInOrder : Prop :=
  ∀ (s : State) (n : LineId),
    let l := s.line n
    let urgent := l.prefetched.filter fun r => r.urgent
    let normal := l.prefetched.filter fun r => !r.urgent
    let due := l.pollList.filter fun id => decide ((s.poll id).state = .due)
    let head := l.followUp.head?
    let may := l.engine = .idle ∧ l.stopping = none ∧ s.hbi.device = .running
    s.nextWork n =
        (if urgent ≠ [] then urgent.head?.map .request
         else if head.any (fun f => f.kind == .probe) then head.map .followUp
         else if l.config.oneShotShare ≤ l.share ∧ 0 < l.config.oneShotShare ∧ normal ≠ [] then normal.head?.map .request
         else if due ≠ [] then due.head?.map .poll
         else if head.any (fun f => f.kind == .eventFetch) then head.map .followUp
         else normal.head?.map .request) ∧
      (¬may → s.arbiterChoice n = s) ∧ (s.nextWork n = none → s.arbiterChoice n = s) ∧
      (∀ w, may → s.nextWork n = some w → s.arbiterChoice n = (s.dispatch n w).arbiterChoice n)

/-- The dispatch checks (R78, R79, R99, R100, R115, R116, R123): a request leaves the queue and is matched by its address; it is completed
NO_STATION, STATION_HELD or STATION_OFFLINE, or passes; a DUE entry goes IN_FLIGHT or is skipped and counted, with a report in mode
ALWAYS; a follow-up entry passes or is dropped with its reservation. Work that passes is bound to its station, whose busy flag is set
(R21), and the first frame is a SYNC for a PROBE or when the resync flag is set (R51). Residue 0 of a BULK WRITE completed at the check is
the model's reading (log entry 16). What an exchange begins with (R44, R45): its source, the request's function, payload and response
buffer, the entry's function and template, the function of an event fetch, no function in a PROBE; a broadcast has no station and address
0 (R56). What a REQUEST carries: the toggle of the station, 0 in a broadcast (R7); the function; the more bit, set in every bulk write
segment but the last and in the continuations of a bulk read (R16, R17); the payload (R9): inline bytes or the template in the first
segment only, and from host memory the whole payload once, or the next 64 bytes of a bulk write (R17, R60). -/
def Obligations.DispatchChecksTheStation : Prop :=
  (let blank := fun (source : Source) (origin : Origin) =>
     ({ source := source, origin := origin, station := none, address := 0, function := none, responseTimeout := 0, retryLimit := 0
        payload := .none, destination := .none, maxSegments := 1, attemptsUsed := 0, attemptsTotal := 0, busyCount := 0, segmentsDone := 0
        delivered := 0, residue := 0, firstFailure := none, lastFailure := none, frameSent := false, status := none, detail := 0
        stationState := 7, reply := none } : Exchange)
   (∀ (r : Request) (source : Source),
     let x := { blank source (.request r) with
       function := some r.function, maxSegments := r.maxSegments
       payload := if r.payloadLength = 0 then .none
         else if r.inlinePayload then .inlineBytes (r.payloadArea.take r.payloadLength) else .host r.payloadAddress r.payloadLength
       destination := if r.bulkWrite || r.broadcast then .none else .buffer r.responseAddress r.responseCapacity
       residue := if r.bulkWrite then r.payloadLength else 0 }
     r.exchange source = x ∧ x.bulkRead = r.bulkRead ∧ x.bulkWrite = r.bulkWrite) ∧
   (∀ (p : Poll) (id : PollId), p.exchange id =
     { blank .poll (.poll id) with function := some p.function, payload := .template p.template, destination := .pollSlot }) ∧
   ∀ f : FollowUp,
     (f.kind = .probe → f.exchange = blank .probe (.followUp f.slot)) ∧
     (f.kind = .eventFetch → f.exchange =
       { blank .eventFetch (.followUp f.slot) with function := some 0x7E#8, destination := .staging })) ∧
  (∀ (s : State) (n : LineId) (r : Request),
     s.takeBroadcast n r = (s.modLine n fun m => { m with exchange := some (r.exchange .broadcast) }).prepareRequest n) ∧
  (∀ (s : State) (x : Exchange) (payload : List Byte),
     (∀ r, x.origin = .request r → x.bulkRead = r.bulkRead ∧ x.bulkWrite = r.bulkWrite ∧
       (r.bulkWrite = true → x.more = decide (64 * (x.segmentsDone + 1) < r.payloadLength)) ∧
       (r.bulkWrite = false → x.more = (r.bulkRead && decide (0 < x.segmentsDone)))) ∧
     ((∀ r, x.origin ≠ .request r) → x.bulkRead = false ∧ x.bulkWrite = false ∧ x.more = false) ∧
     (∀ address length, x.payload = .host address length →
       x.heldPayload = [] ∧
       (x.bulkWrite = true → x.readNeeded =
         if length ≤ 64 * x.segmentsDone then none
         else some (address + BitVec.ofNat 32 (64 * x.segmentsDone), min 64 (length - 64 * x.segmentsDone))) ∧
       (x.bulkWrite = false → x.readNeeded = if 0 < length ∧ x.segmentsDone = 0 then some (address, length) else none)) ∧
     (∀ bytes, x.payload = .inlineBytes bytes ∨ x.payload = .template bytes →
       x.readNeeded = none ∧ x.heldPayload = if x.segmentsDone = 0 then bytes else []) ∧
     (x.payload = .none → x.readNeeded = none ∧ x.heldPayload = []) ∧
     (∀ k, x.station = some k → s.requestToggle x = (s.station k).toggle) ∧ (x.station = none → s.requestToggle x = false) ∧
     s.requestFrame x payload =
       { sync := false, toggle := s.requestToggle x, more := x.more, function := x.function.getD 0#8, payload := payload }) ∧
  (∀ (s : State) (n : LineId) (r : Request),
     let l := s.line n
     let t := s.modLine n fun m => { m with prefetched := m.prefetched.eraseP fun q => q.urgent == r.urgent }
     let pass := t.modLine n fun m => { m with share := if r.urgent then m.share else 0 }
     let done := fun (status : Status) (state : BitVec 3) =>
       t.claimOrWait n { tag := r.tag, status := status, detail := 0, kind := .request, stationState := state
                         origin := BitVec.ofNat 8 n.val, attempts := 0, segments := 0, delivered := 0, residue := 0
                         stamp := l.counters.cycle.setWidth 16 }
     let here := fun k : SlotId => (s.station k).state ≠ .absent ∧ (s.station k).line = n ∧ (s.station k).address = r.address
     let run := s.dispatch n (.request r)
     (r.broadcast = true → run = pass.takeBroadcast n r) ∧
     (r.broadcast = false →
       ((∀ k, ¬here k) → run = done .noStation 7) ∧
       ∀ k, here k → (∀ j, here j → j = k) →
         ((s.station k).state = .held → run = done .stationHeld 5) ∧
         ((s.station k).state = .offline → r.force = false → run = done .stationOffline 4) ∧
         (((s.station k).state = .offline ∧ r.force = true) ∨ (s.station k).state = .probing ∨ (s.station k).state = .online ∨
             (s.station k).state = .suspect → run = pass.takeBound n (r.exchange .request) k))) ∧
  (∀ (s : State) (n : LineId) (id : PollId),
     let p := s.poll id
     let state := (s.station p.station).state
     let run := s.dispatch n (.poll id)
     (state = .probing ∨ state = .online ∨ state = .suspect →
       run = ((s.modPoll id fun q => { q with state := .inFlight }).modLine n fun m =>
         { m with share := if m.share < 15 then m.share + 1 else 15 }).takeBound n (p.exchange id) p.station) ∧
     (state = .held ∨ state = .offline →
       let skipped := if p.skipped < 65535 then p.skipped + 1 else 65535
       let t := s.modPoll id fun q => { q with state := .idle, skipped := skipped }
       (p.mode ≠ .always → run = t) ∧
       (p.mode = .always →
         run = t.claimOrWait n
           { tag := BitVec.ofNat 32 id.val, status := if state = .held then .stationHeld else .stationOffline
             detail := BitVec.ofNat 8 (min skipped 255), kind := .poll, stationState := state.code, origin := BitVec.ofNat 8 id.val
             attempts := 0, segments := 0, delivered := 0, residue := 0, stamp := (s.line n).counters.cycle.setWidth 16 }))) ∧
  (∀ (s : State) (n : LineId) (f : FollowUp),
     let state := (s.station f.slot).state
     let t := s.modLine n fun m => { m with followUp := m.followUp.drop 1 }
     let passes := (f.kind = .probe ∧ state = .offline) ∨
       (f.kind = .eventFetch ∧ (state = .probing ∨ state = .online ∨ state = .suspect) ∧ s.capture.config ≠ none ∧
         s.capture.fault = false ∧ s.capture.reconfig = false ∧ s.capture.staging[n] = none)
     (passes → s.dispatch n (.followUp f) = t.takeBound n f.exchange f.slot) ∧
     (¬passes →
       (f.kind = .eventFetch → s.dispatch n (.followUp f) = t.returnReservation.deferredApply) ∧
       (f.kind = .probe → s.dispatch n (.followUp f) = t.deferredApply))) ∧
  (∀ (s : State) (n : LineId) (c : Completion),
     (s.writer.holding.length < 16 → s.hbi.device ≠ .faulted →
       s.claimOrWait n c = s.modWriter fun w => { w with holding := w.holding ++ [c], pointer := Fin.ofNat 7 (n.val + 1) }) ∧
     (16 ≤ s.writer.holding.length ∨ s.hbi.device = .faulted →
       s.claimOrWait n c = s.modLine n fun m =>
         { m with
           engine := .completeWait, claim := some c
           timers := .stopped, received := [], candidate := [], txCharacter := none, echoPending := none })) ∧
  ∀ (s : State) (n : LineId) (x : Exchange) (k : SlotId),
    let st := s.station k
    let y := { x with station := some k, address := st.address, responseTimeout := st.responseTimeout, retryLimit := st.retryLimit }
    let t := (s.modLine n fun m => { m with exchange := some y }).modStation k fun m => { m with busy := true }
    (x.source = .probe ∨ st.resync = true →
      s.takeBound n x k =
        t.sendFrame n { sync := true, toggle := false, more := false, function := 0x00#8, payload := [] }) ∧
    (x.source ≠ .probe → st.resync = false → s.takeBound n x k = t.prepareRequest n) ∧
    ∀ (u : State) (z : Exchange), (u.line n).exchange = some z →
      (∀ address length, z.readNeeded = some (address, length) →
        u.prepareRequest n = u.modLine n fun m =>
          { m with
            engine := .deliver, job := some (.payloadRead address length [])
            timers := .stopped, received := [], candidate := [], txCharacter := none, echoPending := none }) ∧
      (z.readNeeded = none → u.prepareRequest n = u.sendFrame n (u.requestFrame z z.heldPayload)) ∧
      ∀ f, u.sendFrame n f = u.modLine n fun m =>
        { m with
          engine := .quiet, frame := some f, job := none, resend := false, counted := false, sentCount := 0, mismatch := false
          received := [], candidate := [], txCharacter := none, echoPending := none
          timers := { Timers.stopped with
            quiet := if m.rxHigh then some m.config.quietGap else none
            jam := some (255 * m.config.characterBits) } }

end Statements
end

