-- ==== Sys2Proof/Laws/State.lean ====
section
/-! SUPPORT. One lemma for each part of the state under each update of Machine/Access.lean, and reading back an updated line, station,
poll entry or ring. Later proofs cite these and unfold no record update. -/

namespace Sys2Proof.Machine

/-! ### modHbi -/

@[simp] theorem State.modHbi_hbi (s : State) (f : Hbi → Hbi) : (s.modHbi f).hbi = f s.hbi := rfl
@[simp] theorem State.modHbi_ringUnit (s : State) (f : Hbi → Hbi) : (s.modHbi f).ringUnit = s.ringUnit := rfl
@[simp] theorem State.modHbi_writer (s : State) (f : Hbi → Hbi) : (s.modHbi f).writer = s.writer := rfl
@[simp] theorem State.modHbi_admin (s : State) (f : Hbi → Hbi) : (s.modHbi f).admin = s.admin := rfl
@[simp] theorem State.modHbi_stations (s : State) (f : Hbi → Hbi) : (s.modHbi f).stations = s.stations := rfl
@[simp] theorem State.modHbi_polls (s : State) (f : Hbi → Hbi) : (s.modHbi f).polls = s.polls := rfl
@[simp] theorem State.modHbi_lines (s : State) (f : Hbi → Hbi) : (s.modHbi f).lines = s.lines := rfl
@[simp] theorem State.modHbi_capture (s : State) (f : Hbi → Hbi) : (s.modHbi f).capture = s.capture := rfl
@[simp] theorem State.modHbi_free (s : State) (f : Hbi → Hbi) : (s.modHbi f).free = s.free := rfl
@[simp] theorem State.modHbi_pending (s : State) (f : Hbi → Hbi) : (s.modHbi f).pending = s.pending := rfl

/-! ### modRingUnit -/

@[simp] theorem State.modRingUnit_hbi (s : State) (f : RingUnit → RingUnit) : (s.modRingUnit f).hbi = s.hbi := rfl
@[simp] theorem State.modRingUnit_ringUnit (s : State) (f : RingUnit → RingUnit) : (s.modRingUnit f).ringUnit = f s.ringUnit := rfl
@[simp] theorem State.modRingUnit_writer (s : State) (f : RingUnit → RingUnit) : (s.modRingUnit f).writer = s.writer := rfl
@[simp] theorem State.modRingUnit_admin (s : State) (f : RingUnit → RingUnit) : (s.modRingUnit f).admin = s.admin := rfl
@[simp] theorem State.modRingUnit_stations (s : State) (f : RingUnit → RingUnit) : (s.modRingUnit f).stations = s.stations := rfl
@[simp] theorem State.modRingUnit_polls (s : State) (f : RingUnit → RingUnit) : (s.modRingUnit f).polls = s.polls := rfl
@[simp] theorem State.modRingUnit_lines (s : State) (f : RingUnit → RingUnit) : (s.modRingUnit f).lines = s.lines := rfl
@[simp] theorem State.modRingUnit_capture (s : State) (f : RingUnit → RingUnit) : (s.modRingUnit f).capture = s.capture := rfl
@[simp] theorem State.modRingUnit_free (s : State) (f : RingUnit → RingUnit) : (s.modRingUnit f).free = s.free := rfl
@[simp] theorem State.modRingUnit_pending (s : State) (f : RingUnit → RingUnit) : (s.modRingUnit f).pending = s.pending := rfl

/-! ### modWriter -/

@[simp] theorem State.modWriter_hbi (s : State) (f : CompletionWriter → CompletionWriter) : (s.modWriter f).hbi = s.hbi := rfl
@[simp] theorem State.modWriter_ringUnit (s : State) (f : CompletionWriter → CompletionWriter) : (s.modWriter f).ringUnit = s.ringUnit := rfl
@[simp] theorem State.modWriter_writer (s : State) (f : CompletionWriter → CompletionWriter) : (s.modWriter f).writer = f s.writer := rfl
@[simp] theorem State.modWriter_admin (s : State) (f : CompletionWriter → CompletionWriter) : (s.modWriter f).admin = s.admin := rfl
@[simp] theorem State.modWriter_stations (s : State) (f : CompletionWriter → CompletionWriter) : (s.modWriter f).stations = s.stations := rfl
@[simp] theorem State.modWriter_polls (s : State) (f : CompletionWriter → CompletionWriter) : (s.modWriter f).polls = s.polls := rfl
@[simp] theorem State.modWriter_lines (s : State) (f : CompletionWriter → CompletionWriter) : (s.modWriter f).lines = s.lines := rfl
@[simp] theorem State.modWriter_capture (s : State) (f : CompletionWriter → CompletionWriter) : (s.modWriter f).capture = s.capture := rfl
@[simp] theorem State.modWriter_free (s : State) (f : CompletionWriter → CompletionWriter) : (s.modWriter f).free = s.free := rfl
@[simp] theorem State.modWriter_pending (s : State) (f : CompletionWriter → CompletionWriter) : (s.modWriter f).pending = s.pending := rfl

/-! ### modCapture -/

@[simp] theorem State.modCapture_hbi (s : State) (f : Capture → Capture) : (s.modCapture f).hbi = s.hbi := rfl
@[simp] theorem State.modCapture_ringUnit (s : State) (f : Capture → Capture) : (s.modCapture f).ringUnit = s.ringUnit := rfl
@[simp] theorem State.modCapture_writer (s : State) (f : Capture → Capture) : (s.modCapture f).writer = s.writer := rfl
@[simp] theorem State.modCapture_admin (s : State) (f : Capture → Capture) : (s.modCapture f).admin = s.admin := rfl
@[simp] theorem State.modCapture_stations (s : State) (f : Capture → Capture) : (s.modCapture f).stations = s.stations := rfl
@[simp] theorem State.modCapture_polls (s : State) (f : Capture → Capture) : (s.modCapture f).polls = s.polls := rfl
@[simp] theorem State.modCapture_lines (s : State) (f : Capture → Capture) : (s.modCapture f).lines = s.lines := rfl
@[simp] theorem State.modCapture_capture (s : State) (f : Capture → Capture) : (s.modCapture f).capture = f s.capture := rfl
@[simp] theorem State.modCapture_free (s : State) (f : Capture → Capture) : (s.modCapture f).free = s.free := rfl
@[simp] theorem State.modCapture_pending (s : State) (f : Capture → Capture) : (s.modCapture f).pending = s.pending := rfl

/-! ### setAdmin -/

@[simp] theorem State.setAdmin_hbi (s : State) (a : Admin) : (s.setAdmin a).hbi = s.hbi := rfl
@[simp] theorem State.setAdmin_ringUnit (s : State) (a : Admin) : (s.setAdmin a).ringUnit = s.ringUnit := rfl
@[simp] theorem State.setAdmin_writer (s : State) (a : Admin) : (s.setAdmin a).writer = s.writer := rfl
@[simp] theorem State.setAdmin_admin (s : State) (a : Admin) : (s.setAdmin a).admin = a := rfl
@[simp] theorem State.setAdmin_stations (s : State) (a : Admin) : (s.setAdmin a).stations = s.stations := rfl
@[simp] theorem State.setAdmin_polls (s : State) (a : Admin) : (s.setAdmin a).polls = s.polls := rfl
@[simp] theorem State.setAdmin_lines (s : State) (a : Admin) : (s.setAdmin a).lines = s.lines := rfl
@[simp] theorem State.setAdmin_capture (s : State) (a : Admin) : (s.setAdmin a).capture = s.capture := rfl
@[simp] theorem State.setAdmin_free (s : State) (a : Admin) : (s.setAdmin a).free = s.free := rfl
@[simp] theorem State.setAdmin_pending (s : State) (a : Admin) : (s.setAdmin a).pending = s.pending := rfl

/-! ### modLine -/

@[simp] theorem State.modLine_hbi (s : State) (n : LineId) (f : Line → Line) : (s.modLine n f).hbi = s.hbi := rfl
@[simp] theorem State.modLine_ringUnit (s : State) (n : LineId) (f : Line → Line) : (s.modLine n f).ringUnit = s.ringUnit := rfl
@[simp] theorem State.modLine_writer (s : State) (n : LineId) (f : Line → Line) : (s.modLine n f).writer = s.writer := rfl
@[simp] theorem State.modLine_admin (s : State) (n : LineId) (f : Line → Line) : (s.modLine n f).admin = s.admin := rfl
@[simp] theorem State.modLine_stations (s : State) (n : LineId) (f : Line → Line) : (s.modLine n f).stations = s.stations := rfl
@[simp] theorem State.modLine_polls (s : State) (n : LineId) (f : Line → Line) : (s.modLine n f).polls = s.polls := rfl
@[simp] theorem State.modLine_lines (s : State) (n : LineId) (f : Line → Line) : (s.modLine n f).lines = s.lines.set n (f s.lines[n]) := rfl
@[simp] theorem State.modLine_capture (s : State) (n : LineId) (f : Line → Line) : (s.modLine n f).capture = s.capture := rfl
@[simp] theorem State.modLine_free (s : State) (n : LineId) (f : Line → Line) : (s.modLine n f).free = s.free := rfl
@[simp] theorem State.modLine_pending (s : State) (n : LineId) (f : Line → Line) : (s.modLine n f).pending = s.pending := rfl

/-! ### modStation -/

@[simp] theorem State.modStation_hbi (s : State) (k : SlotId) (f : Station → Station) : (s.modStation k f).hbi = s.hbi := rfl
@[simp] theorem State.modStation_ringUnit (s : State) (k : SlotId) (f : Station → Station) : (s.modStation k f).ringUnit = s.ringUnit := rfl
@[simp] theorem State.modStation_writer (s : State) (k : SlotId) (f : Station → Station) : (s.modStation k f).writer = s.writer := rfl
@[simp] theorem State.modStation_admin (s : State) (k : SlotId) (f : Station → Station) : (s.modStation k f).admin = s.admin := rfl
@[simp] theorem State.modStation_stations (s : State) (k : SlotId) (f : Station → Station) : (s.modStation k f).stations = s.stations.set k (f s.stations[k]) := rfl
@[simp] theorem State.modStation_polls (s : State) (k : SlotId) (f : Station → Station) : (s.modStation k f).polls = s.polls := rfl
@[simp] theorem State.modStation_lines (s : State) (k : SlotId) (f : Station → Station) : (s.modStation k f).lines = s.lines := rfl
@[simp] theorem State.modStation_capture (s : State) (k : SlotId) (f : Station → Station) : (s.modStation k f).capture = s.capture := rfl
@[simp] theorem State.modStation_free (s : State) (k : SlotId) (f : Station → Station) : (s.modStation k f).free = s.free := rfl
@[simp] theorem State.modStation_pending (s : State) (k : SlotId) (f : Station → Station) : (s.modStation k f).pending = s.pending := rfl

/-! ### modPoll -/

@[simp] theorem State.modPoll_hbi (s : State) (k : PollId) (f : Poll → Poll) : (s.modPoll k f).hbi = s.hbi := rfl
@[simp] theorem State.modPoll_ringUnit (s : State) (k : PollId) (f : Poll → Poll) : (s.modPoll k f).ringUnit = s.ringUnit := rfl
@[simp] theorem State.modPoll_writer (s : State) (k : PollId) (f : Poll → Poll) : (s.modPoll k f).writer = s.writer := rfl
@[simp] theorem State.modPoll_admin (s : State) (k : PollId) (f : Poll → Poll) : (s.modPoll k f).admin = s.admin := rfl
@[simp] theorem State.modPoll_stations (s : State) (k : PollId) (f : Poll → Poll) : (s.modPoll k f).stations = s.stations := rfl
@[simp] theorem State.modPoll_polls (s : State) (k : PollId) (f : Poll → Poll) : (s.modPoll k f).polls = s.polls.set k (f s.polls[k]) := rfl
@[simp] theorem State.modPoll_lines (s : State) (k : PollId) (f : Poll → Poll) : (s.modPoll k f).lines = s.lines := rfl
@[simp] theorem State.modPoll_capture (s : State) (k : PollId) (f : Poll → Poll) : (s.modPoll k f).capture = s.capture := rfl
@[simp] theorem State.modPoll_free (s : State) (k : PollId) (f : Poll → Poll) : (s.modPoll k f).free = s.free := rfl
@[simp] theorem State.modPoll_pending (s : State) (k : PollId) (f : Poll → Poll) : (s.modPoll k f).pending = s.pending := rfl

/-! ### nextFree -/

@[simp] theorem State.nextFree_hbi (s : State) : (s.nextFree).hbi = s.hbi := rfl
@[simp] theorem State.nextFree_ringUnit (s : State) : (s.nextFree).ringUnit = s.ringUnit := rfl
@[simp] theorem State.nextFree_writer (s : State) : (s.nextFree).writer = s.writer := rfl
@[simp] theorem State.nextFree_admin (s : State) : (s.nextFree).admin = s.admin := rfl
@[simp] theorem State.nextFree_stations (s : State) : (s.nextFree).stations = s.stations := rfl
@[simp] theorem State.nextFree_polls (s : State) : (s.nextFree).polls = s.polls := rfl
@[simp] theorem State.nextFree_lines (s : State) : (s.nextFree).lines = s.lines := rfl
@[simp] theorem State.nextFree_capture (s : State) : (s.nextFree).capture = s.capture := rfl
@[simp] theorem State.nextFree_free (s : State) : (s.nextFree).free = s.free + 1 := rfl
@[simp] theorem State.nextFree_pending (s : State) : (s.nextFree).pending = s.pending := rfl

/-! ### askFetch -/

@[simp] theorem State.askFetch_hbi (s : State) : s.askFetch.hbi = s.hbi := rfl
@[simp] theorem State.askFetch_rings (s : State) : s.askFetch.ringUnit.rings = s.ringUnit.rings := rfl
@[simp] theorem State.askFetch_writer (s : State) : s.askFetch.writer = s.writer := rfl
@[simp] theorem State.askFetch_admin (s : State) : s.askFetch.admin = s.admin := rfl
@[simp] theorem State.askFetch_stations (s : State) : s.askFetch.stations = s.stations := rfl
@[simp] theorem State.askFetch_polls (s : State) : s.askFetch.polls = s.polls := rfl
@[simp] theorem State.askFetch_lines (s : State) : s.askFetch.lines = s.lines := rfl
@[simp] theorem State.askFetch_capture (s : State) : s.askFetch.capture = s.capture := rfl
@[simp] theorem State.askFetch_free (s : State) : s.askFetch.free = s.free := rfl
@[simp] theorem State.askFetch_pending (s : State) : s.askFetch.pending = s.pending := rfl

/-! ### Reading back -/

@[simp] theorem State.modLine_line (s : State) (n m : LineId) (f : Line → Line) :
    (s.modLine n f).line m = if n = m then f (s.line m) else s.line m := by
  unfold State.line State.modLine
  simp only [Fin.getElem_fin, Vector.getElem_set, Fin.ext_iff]
  split
  · next h => simp [h]
  · rfl

@[simp] theorem State.modStation_station (s : State) (k j : SlotId) (f : Station → Station) :
    (s.modStation k f).station j = if k = j then f (s.station j) else s.station j := by
  unfold State.station State.modStation
  simp only [Fin.getElem_fin, Vector.getElem_set, Fin.ext_iff]
  split
  · next h => simp [h]
  · rfl

@[simp] theorem State.modPoll_poll (s : State) (k j : PollId) (f : Poll → Poll) :
    (s.modPoll k f).poll j = if k = j then f (s.poll j) else s.poll j := by
  unfold State.poll State.modPoll
  simp only [Fin.getElem_fin, Vector.getElem_set, Fin.ext_iff]
  split
  · next h => simp [h]
  · rfl

@[simp] theorem State.modRing_ring (s : State) (r q : RingId) (f : Ring → Ring) :
    (s.modRing r f).ring q = if r = q then f (s.ring q) else s.ring q := by
  unfold State.ring State.modRing State.modRingUnit
  simp only [Fin.getElem_fin, Vector.getElem_set, Fin.ext_iff]
  split
  · next h => simp [h]
  · rfl

/-- A part of the state that an update leaves alone reads the same. -/
theorem State.line_congr {s t : State} (h : t.lines = s.lines) (n : LineId) : t.line n = s.line n := by
  unfold State.line
  rw [h]

theorem State.station_congr {s t : State} (h : t.stations = s.stations) (k : SlotId) : t.station k = s.station k := by
  unfold State.station
  rw [h]

theorem State.poll_congr {s t : State} (h : t.polls = s.polls) (id : PollId) : t.poll id = s.poll id := by
  unfold State.poll
  rw [h]

end Sys2Proof.Machine
end

