-- ==== Sys2Proof/Laws/Moves.lean ====
section
/-! SUPPORT. What a command can do, said once: every command but a reset is a run of MOVES, each of which changes one part of the state and
keeps what that part always keeps. An invariant that every move keeps is kept by every such command. -/

namespace Sys2Proof.Machine

/-! ## What a change of one part keeps -/

/-- How much a run of moves may change: anything; nothing that stops the device or rewrites the Completion Writer; nor the device state
or a line's settings, cycle number and cycle timer. -/
inductive Pace where
  | any | working | still

/-- What a pace allows at the Host Bus Interface. -/
def Pace.Hbi (p : Pace) (h k : Machine.Hbi) : Prop :=
  match p with
  | .any => True
  | .working => (h.device ≠ .faulted → k.device ≠ .faulted) ∧ h.attention ||| k.attention = k.attention
  | .still => k.device = h.device ∧ h.attention ||| k.attention = k.attention

/-- What a pace allows at the Completion Writer, completions that join the holding queue apart. -/
def Pace.Writer (p : Pace) (w v : CompletionWriter) : Prop :=
  p ≠ .any → ∃ q m, v = { w with pointer := q, noticeNext := m }

/-- What a pace allows at a line. -/
def Pace.Line (p : Pace) (l m : Machine.Line) : Prop :=
  p = .still → m.config = l.config ∧ m.counters.cycle = l.counters.cycle ∧ m.cycleTimer = l.cycleTimer

/-- A change of a line keeps its queue bounds, its counter ranges and its poll list. -/
structure LineKeeps (p : Pace) (l m : Line) : Prop where
  queues : l.QueuesInBounds → m.QueuesInBounds
  counters : l.CountersInRange → m.CountersInRange
  list : m.pollList = l.pollList
  pace : p.Line l m

/-- A change of a station entry keeps its ranges. -/
structure StationKeeps (a b : Station) : Prop where
  health : a.HealthInRange → b.HealthInRange
  reprobe : a.ReprobeOnlyOffline → b.ReprobeOnlyOffline
  good : a.good ≤ Config.counterMax → b.good ≤ Config.counterMax
  failed : a.failed ≤ Config.counterMax → b.failed ≤ Config.counterMax

/-- A change of a poll entry keeps it in use or FREE, on its line, and its skipped counter in range. -/
structure PollKeeps (a b : Poll) : Prop where
  free : b.state = .free ↔ a.state = .free
  line : b.line = a.line
  skipped : a.skipped ≤ Config.counterMax → b.skipped ≤ Config.counterMax

/-- One change of one part of the state. -/
inductive Move (p : Pace) : State → State → Prop
  | hbi (s : State) (f : Hbi → Hbi)
      (h : s.hbi.device = .faulted → (f s.hbi).device = .faulted ∧ (f s.hbi).faultCause = s.hbi.faultCause)
      (k : p.Hbi s.hbi (f s.hbi)) : Move p s (s.modHbi f)
  | ringUnit (s : State) (f : RingUnit → RingUnit)
      (h : s.hbi.device = .faulted → (f s.ringUnit).rings = s.ringUnit.rings ∧
        (f s.ringUnit).faultCount = s.ringUnit.faultCount) : Move p s (s.modRingUnit f)
  | writer (s : State) (f : CompletionWriter → CompletionWriter)
      (queue : (f s.writer).holding.length ≤ s.writer.holding.length)
      (count : s.writer.moderationCount ≤ 255 → (f s.writer).moderationCount ≤ 255)
      (h : s.hbi.device = .faulted → (f s.writer).holding = s.writer.holding ∧ (f s.writer).producer = s.writer.producer ∧
        (f s.writer).released = s.writer.released)
      (k : p.Writer s.writer (f s.writer)) : Move p s (s.modWriter f)
  | join (s : State) (f : CompletionWriter → CompletionWriter) (c : Completion) (q : Fin 7) (room : s.hasRoom = true)
      (device : s.hbi.device ≠ .faulted)
      (h : f s.writer = { s.writer with holding := s.writer.holding ++ [c], pointer := q }) : Move p s (s.modWriter f)
  | admin (s : State) (a : Admin)
      (h : ∀ tag x, a = .writing tag (.definePoll x) →
        (s.poll x.id).state = .free ∨ s.admin = .writing tag (.definePoll x)) : Move p s (s.setAdmin a)
  | capture (s : State) (f : Capture → Capture) : Move p s (s.modCapture f)
  | line (s : State) (n : LineId) (f : Line → Line) (h : LineKeeps p (s.line n) (f (s.line n))) : Move p s (s.modLine n f)
  | station (s : State) (k : SlotId) (f : Station → Station) (h : StationKeeps (s.station k) (f (s.station k))) :
      Move p s (s.modStation k f)
  | poll (s : State) (k : PollId) (f : Poll → Poll) (h : PollKeeps (s.poll k) (f (s.poll k))) : Move p s (s.modPoll k f)
  | freePoll (s : State) (id : PollId) : Move p s (s.freePoll id)
  | fillPoll (s : State) (tag : Half) (a : PollArguments) (h : s.admin = .writing tag (.definePoll a)) :
      Move p s ((s.fillPoll a).setAdmin .idle)
  | free (s : State) : Move p s s.nextFree

/-- A run of moves. -/
abbrev Moves (p : Pace) : State → State → Prop := Relation.ReflTransGen (Move p)

variable {p : Pace}

theorem Moves.refl (s : State) : Moves p s s := Relation.ReflTransGen.refl

theorem Move.run {s t : State} (h : Move p s t) : Moves p s t := Relation.ReflTransGen.single h

/-! ## The invariants along moves -/

/-- What freeing a poll entry leaves at a line and at an entry. -/
theorem State.freePoll_line (s : State) (id : PollId) (n : LineId) :
    (s.freePoll id).line n = if (s.poll id).line = n
      then { s.line n with pollList := (s.line n).pollList.filter fun k => k != id } else s.line n := by
  unfold State.freePoll
  rw [State.line_congr (State.modPoll_lines _ _ _), State.modLine_line]

theorem State.freePoll_poll (s : State) (id j : PollId) :
    (s.freePoll id).poll j = if id = j then .free else s.poll j := by
  unfold State.freePoll
  rw [State.modPoll_poll]
  rfl

/-- What filling a poll entry leaves at a line and at an entry. -/
theorem State.fillPoll_line (s : State) (a : PollArguments) (n : LineId) :
    (s.fillPoll a).line n = if a.line = n
      then { s.line n with pollList := placeInList (s.line n).pollList a.id a.before } else s.line n := by
  unfold State.fillPoll
  rw [State.modLine_line]
  rfl

theorem State.fillPoll_poll (s : State) (a : PollArguments) (j : PollId) :
    (s.fillPoll a).poll j = if a.id = j then a.entry else s.poll j := by
  unfold State.fillPoll
  rw [State.poll_congr (State.modLine_polls _ _ _), State.modPoll_poll]

/-- A line that differs in its poll list alone keeps its queues and counters. -/
theorem Line.queuesInBounds_list {l : Line} (list : List PollId) (h : l.QueuesInBounds) :
    ({ l with pollList := list } : Line).QueuesInBounds := h

theorem Line.countersInRange_list {l : Line} (list : List PollId) (h : l.CountersInRange) :
    ({ l with pollList := list } : Line).CountersInRange := h

theorem Moves.queuesInBounds {s t : State} (h : Moves p s t) (hs : s.QueuesInBounds) : t.QueuesInBounds := by
  induction h with
  | refl => exact hs
  | @tail u _ _ m ih =>
    cases m with
    | writer f queue _ _ _ => exact ⟨queue.trans ih.1, ih.2⟩
    | join f c q room _ eq =>
      refine ⟨?_, ih.2⟩
      have := of_decide_eq_true room
      simp only [State.modWriter_writer, eq, List.length_append, List.length_cons, List.length_nil]
      omega
    | line n f k =>
      refine ⟨ih.1, fun m => ?_⟩
      simp only [State.modLine_line]
      split
      · next e => subst e; exact k.queues (ih.2 _)
      · exact ih.2 m
    | freePoll id =>
      refine ⟨ih.1, fun m => ?_⟩
      rw [State.freePoll_line]
      split
      · exact Line.queuesInBounds_list _ (ih.2 m)
      · exact ih.2 m
    | fillPoll tag a _ =>
      refine ⟨ih.1, fun m => ?_⟩
      rw [State.line_congr (State.setAdmin_lines _ _), State.fillPoll_line]
      split
      · exact Line.queuesInBounds_list _ (ih.2 m)
      · exact ih.2 m
    | _ => exact ih

theorem Moves.stationsInRange {s t : State} (h : Moves p s t) (hs : s.StationsInRange) : t.StationsInRange := by
  induction h with
  | refl => exact hs
  | tail _ m ih =>
    cases m with
    | station k f c =>
      intro j
      simp only [State.modStation_station]
      split
      · next e => subst e; exact ⟨c.health (ih _).1, c.reprobe (ih _).2⟩
      · exact ih j
    | _ => exact ih

theorem Moves.countersInRange {s t : State} (h : Moves p s t) (hs : s.CountersInRange) : t.CountersInRange := by
  induction h with
  | refl => exact hs
  | tail _ m ih =>
    obtain ⟨hl, hk, hp, hm⟩ := ih
    cases m with
    | writer f _ count _ _ => exact ⟨hl, hk, hp, count hm⟩
    | join f c q _ _ eq =>
      refine ⟨hl, hk, hp, ?_⟩
      simp only [State.modWriter_writer, eq]
      exact hm
    | line n f k =>
      refine ⟨fun m => ?_, hk, hp, hm⟩
      simp only [State.modLine_line]
      split
      · next e => subst e; exact k.counters (hl _)
      · exact hl m
    | station k f c =>
      refine ⟨hl, fun j => ?_, hp, hm⟩
      simp only [State.modStation_station]
      split
      · next e => subst e; exact ⟨c.good (hk _).1, c.failed (hk _).2⟩
      · exact hk j
    | poll k f c =>
      refine ⟨hl, hk, fun j => ?_, hm⟩
      simp only [State.modPoll_poll]
      split
      · next e => subst e; exact c.skipped (hp _)
      · exact hp j
    | freePoll id =>
      refine ⟨fun m => ?_, hk, fun j => ?_, hm⟩
      · rw [State.freePoll_line]
        split
        · exact Line.countersInRange_list _ (hl m)
        · exact hl m
      · rw [State.freePoll_poll]
        split
        · exact Nat.zero_le _
        · exact hp j
    | fillPoll tag a _ =>
      refine ⟨fun m => ?_, hk, fun j => ?_, hm⟩
      · rw [State.line_congr (State.setAdmin_lines _ _), State.fillPoll_line]
        split
        · exact Line.countersInRange_list _ (hl m)
        · exact hl m
      · rw [State.poll_congr (State.setAdmin_polls _ _), State.fillPoll_poll]
        split
        · exact Nat.zero_le _
        · exact hp j
    | _ => exact ⟨hl, hk, hp, hm⟩

/-- What a placed list holds, and that it repeats nothing (R91). -/
theorem placeInList_perm (list : List PollId) (id : PollId) (before : Option PollId) :
    (placeInList list id before).Perm (id :: list) := by
  cases before with
  | none => exact List.perm_append_singleton id list
  | some b =>
    unfold placeInList
    refine List.perm_middle.trans ?_
    rw [List.takeWhile_append_dropWhile]

theorem Moves.pollListsConsistent {s t : State} (h : Moves p s t) (hs : s.PollListsConsistent) : t.PollListsConsistent := by
  induction h with
  | refl => exact hs
  | @tail u _ _ m ih =>
    obtain ⟨hn, hm, ha⟩ := ih
    cases m with
    | admin a h =>
      refine ⟨hn, hm, fun tag x e => ?_⟩
      rcases h tag x e with h | h
      · exact h
      · exact ha tag x h
    | line n f k =>
      have e (m : LineId) : ((u.modLine n f).line m).pollList = (u.line m).pollList := by
        rw [State.modLine_line]
        split
        · next e => subst e; exact k.list
        · rfl
      exact ⟨fun m => (e m).symm ▸ hn m, fun m id => by rw [e m]; exact hm m id, ha⟩
    | poll k f c =>
      have st (j : PollId) : ((u.modPoll k f).poll j).state = .free ↔ (u.poll j).state = .free := by
        rw [State.modPoll_poll]
        split
        · next e => subst e; exact c.free
        · exact Iff.rfl
      have ln (j : PollId) : ((u.modPoll k f).poll j).line = (u.poll j).line := by
        rw [State.modPoll_poll]
        split
        · next e => subst e; exact c.line
        · rfl
      refine ⟨hn, fun m id => ?_, fun tag a e => (st _).mpr (ha tag a e)⟩
      rw [show (u.modPoll k f).line m = u.line m from rfl, ne_eq, st, ln]
      exact hm m id
    | freePoll id =>
      refine ⟨fun m => ?_, fun m j => ?_, fun tag a e => ?_⟩
      · rw [State.freePoll_line]
        split
        · exact (hn m).filter _
        · exact hn m
      · rw [State.freePoll_line, State.freePoll_poll]
        have := hm m j
        by_cases e : id = j
        · subst e
          simp only [if_true, Poll.free, ne_eq, not_true_eq_false, false_and, iff_false]
          split
          · simp
          · next ne => exact fun h => ne (this.mp h).2
        · simp only [e, if_false]
          split
          · simp only [List.mem_filter, bne_iff_ne, ne_eq]
            exact ⟨fun h => this.mp h.1, fun h => ⟨this.mpr h, fun k => e k.symm⟩⟩
          · exact this
      · rw [State.freePoll_poll]
        split
        · rfl
        · exact ha tag a e
    | fillPoll tag a e =>
      have hf := ha tag a e
      have out (m : LineId) : a.id ∉ (u.line m).pollList := fun h => ((hm m a.id).mp h).1 hf
      refine ⟨fun m => ?_, fun m j => ?_, fun tag x e => by cases e⟩
      · rw [State.line_congr (State.setAdmin_lines _ _), State.fillPoll_line]
        split
        · exact (placeInList_perm _ _ _).nodup_iff.mpr (List.nodup_cons.mpr ⟨out m, hn m⟩)
        · exact hn m
      · rw [State.line_congr (State.setAdmin_lines _ _), State.poll_congr (State.setAdmin_polls _ _), State.fillPoll_line,
          State.fillPoll_poll]
        have := hm m j
        by_cases e : a.id = j
        · subst e
          simp only [if_true, PollArguments.entry, ne_eq, reduceCtorEq, not_false_eq_true, true_and]
          split
          · next e => exact ⟨fun _ => e, fun _ => (placeInList_perm _ _ _).mem_iff.mpr List.mem_cons_self⟩
          · next ne => exact ⟨fun h => absurd h (out m), fun h => absurd h ne⟩
        · simp only [e, if_false]
          split
          · have mem := (placeInList_perm (u.line m).pollList a.id a.before).mem_iff (a := j)
            simp only [List.mem_cons, show ¬ j = a.id from fun k => e k.symm, false_or] at mem
            exact mem.trans this
          · exact this
    | _ => exact ⟨hn, hm, ha⟩

theorem Moves.faultKept {s t : State} (h : Moves p s t) (hs : s.hbi.device = .faulted) : s.FaultKept t := by
  induction h with
  | refl => exact ⟨rfl, rfl, rfl, rfl, rfl, rfl, rfl⟩
  | tail _ m ih =>
    obtain ⟨h1, h2, h3, h4, h5, h6, h7⟩ := ih
    have hd := h1.trans hs
    cases m with
    | hbi f k _ => exact ⟨(k hd).1.trans hs.symm, (k hd).2.trans h2, h3, h4, h5, h6, h7⟩
    | ringUnit f k => exact ⟨h1, h2, h3, h4, h5, (k hd).1.trans h6, (k hd).2.trans h7⟩
    | writer f _ _ k _ => exact ⟨h1, h2, (k hd).1.trans h3, (k hd).2.1.trans h4, (k hd).2.2.trans h5, h6, h7⟩
    | join f c q _ device _ => exact absurd hd device
    | _ => exact ⟨h1, h2, h3, h4, h5, h6, h7⟩

/-- No move touches the commands that wait. -/
theorem Moves.pending {s t : State} (h : Moves p s t) : t.pending = s.pending := by
  induction h with
  | refl => rfl
  | tail _ m ih => cases m <;> exact ih

/-- A working run does not stop the device. -/
theorem Moves.notFaulted {s t : State} (h : Moves p s t) (hp : p ≠ .any) (hs : s.hbi.device ≠ .faulted) :
    t.hbi.device ≠ .faulted := by
  induction h with
  | refl => exact hs
  | tail _ m ih =>
    cases m with
    | hbi f _ k =>
      cases p with
      | any => exact absurd rfl hp
      | working => exact k.1 ih
      | still => exact k.1.symm ▸ ih
    | _ => exact ih

/-- Attention causes latched stay latched in a working run. -/
theorem Moves.attention {s t : State} (h : Moves p s t) (hp : p ≠ .any) :
    s.hbi.attention ||| t.hbi.attention = t.hbi.attention := by
  induction h with
  | refl => exact BitVec.or_self
  | @tail u _ _ m ih =>
    cases m with
    | hbi f _ k =>
      have k : u.hbi.attention ||| (f u.hbi).attention = (f u.hbi).attention := by
        cases p with
        | any => exact absurd rfl hp
        | working => exact k.2
        | still => exact k.2
      rw [State.modHbi_hbi, ← k, ← BitVec.or_assoc, ih]
    | _ => exact ih

/-- In a working run completions join the holding queue, and the Completion Writer is otherwise left alone. -/
theorem Moves.writerJoins {s t : State} (h : Moves p s t) (hp : p ≠ .any) :
    ∃ cs q m, t.writer = { s.writer with holding := s.writer.holding ++ cs, pointer := q, noticeNext := m } := by
  induction h with
  | refl => exact ⟨[], s.writer.pointer, s.writer.noticeNext, by rw [List.append_nil]⟩
  | tail _ m ih =>
    obtain ⟨cs, q, m', e⟩ := ih
    cases m with
    | writer f _ _ _ k =>
      obtain ⟨q', m'', k⟩ := k hp
      exact ⟨cs, q', m'', by rw [State.modWriter_writer, k, e]⟩
    | join f c q' _ _ k =>
      exact ⟨cs ++ [c], q', m', by rw [State.modWriter_writer, k, e]; simp [List.append_assoc]⟩
    | _ => exact ⟨cs, q, m', e⟩

/-- A still run leaves the device state as it is. -/
theorem Moves.device_still {s t : State} (h : Moves .still s t) : t.hbi.device = s.hbi.device := by
  induction h with
  | refl => rfl
  | tail _ m ih =>
    cases m with
    | hbi f _ k => exact k.1.trans ih
    | _ => exact ih

/-- A still run leaves the settings, the cycle number and the cycle timer of every line as they are. -/
theorem Moves.line_still {s t : State} (h : Moves .still s t) (n : LineId) :
    (t.line n).config = (s.line n).config ∧ (t.line n).counters.cycle = (s.line n).counters.cycle ∧
      (t.line n).cycleTimer = (s.line n).cycleTimer := by
  induction h with
  | refl => exact ⟨rfl, rfl, rfl⟩
  | @tail u _ _ m ih =>
    obtain ⟨h1, h2, h3⟩ := ih
    cases m with
    | line j f k =>
      rw [State.modLine_line]
      split
      · next e =>
        subst e
        obtain ⟨k1, k2, k3⟩ := k.pace rfl
        exact ⟨k1.trans h1, k2.trans h2, k3.trans h3⟩
      · exact ⟨h1, h2, h3⟩
    | freePoll id =>
      rw [State.freePoll_line]
      split <;> exact ⟨h1, h2, h3⟩
    | fillPoll tag a _ =>
      rw [State.line_congr (State.setAdmin_lines _ _), State.fillPoll_line]
      split <;> exact ⟨h1, h2, h3⟩
    | _ => exact ⟨h1, h2, h3⟩

theorem LineKeeps.loose {l m : Line} (h : LineKeeps p l m) : LineKeeps .any l m :=
  ⟨h.queues, h.counters, h.list, fun e => by cases e⟩

/-- Every run of moves is a run at any pace. -/
theorem Moves.loose {s t : State} (h : Moves p s t) : Moves .any s t := by
  induction h with
  | refl => exact Relation.ReflTransGen.refl
  | tail _ m ih =>
    refine ih.tail ?_
    cases m with
    | hbi f k _ => exact .hbi _ f k trivial
    | ringUnit f k => exact .ringUnit _ f k
    | writer f a b c _ => exact .writer _ f a b c fun e => absurd rfl e
    | join f c q room device h => exact .join _ f c q room device h
    | admin a h => exact .admin _ a h
    | capture f => exact .capture _ f
    | line n f k => exact .line _ n f k.loose
    | station k f c => exact .station _ k f c
    | poll k f c => exact .poll _ k f c
    | freePoll id => exact .freePoll _ id
    | fillPoll tag a h => exact .fillPoll _ tag a h
    | free => exact .free _

/-- A still run is a working run. -/
theorem Moves.works {s t : State} (h : Moves .still s t) : Moves .working s t := by
  induction h with
  | refl => exact Relation.ReflTransGen.refl
  | tail _ m ih =>
    refine ih.tail ?_
    cases m with
    | hbi f k c => exact .hbi _ f k ⟨fun h => c.1.symm ▸ h, c.2⟩
    | ringUnit f k => exact .ringUnit _ f k
    | writer f a b c d => exact .writer _ f a b c fun _ => d (by simp)
    | join f c q room device h => exact .join _ f c q room device h
    | admin a h => exact .admin _ a h
    | capture f => exact .capture _ f
    | line n f k => exact .line _ n f ⟨k.queues, k.counters, k.list, fun e => by cases e⟩
    | station k f c => exact .station _ k f c
    | poll k f c => exact .poll _ k f c
    | freePoll id => exact .freePoll _ id
    | fillPoll tag a h => exact .fillPoll _ tag a h
    | free => exact .free _

/-- No move leaves FAULTED. -/
theorem Moves.faulted {s t : State} (h : Moves p s t) (hs : s.hbi.device = .faulted) : t.hbi.device = .faulted :=
  (h.faultKept hs).1.trans hs

/-! ## One-step moves -/

/-- A change of a line that leaves its queues, counters, share counter, list, settings and cycle timer alone. -/
theorem LineKeeps.same {l m : Line} (h1 : m.prefetched = l.prefetched := by rfl) (h2 : m.followUp = l.followUp := by rfl)
    (h3 : m.counters = l.counters := by rfl) (h4 : m.share = l.share := by rfl) (h5 : m.pollList = l.pollList := by rfl)
    (h6 : m.config = l.config := by rfl) (h7 : m.cycleTimer = l.cycleTimer := by rfl) : LineKeeps p l m :=
  ⟨fun h => by unfold Line.QueuesInBounds at *; rwa [h1, h2], fun h => by unfold Line.CountersInRange at *; rwa [h3, h4], h5,
    fun _ => ⟨h6, by rw [h3], h7⟩⟩

/-- A change of a line's settings or cycle timer. -/
theorem LineKeeps.timing {l m : Line} (hp : p ≠ .still) (h1 : m.prefetched = l.prefetched := by rfl)
    (h2 : m.followUp = l.followUp := by rfl) (h3 : m.counters = l.counters := by rfl) (h4 : m.share = l.share := by rfl)
    (h5 : m.pollList = l.pollList := by rfl) : LineKeeps p l m :=
  ⟨fun h => by unfold Line.QueuesInBounds at *; rwa [h1, h2], fun h => by unfold Line.CountersInRange at *; rwa [h3, h4], h5,
    fun e => absurd e hp⟩

/-- A change of a line that shortens its queues, or leaves them, and leaves its counters alone. -/
theorem LineKeeps.shorter {l m : Line} (h1 : m.prefetched.Sublist l.prefetched) (h2 : m.followUp.Sublist l.followUp)
    (h3 : m.counters = l.counters := by rfl) (h4 : m.share = l.share := by rfl) (h5 : m.pollList = l.pollList := by rfl)
    (h6 : m.config = l.config := by rfl) (h7 : m.cycleTimer = l.cycleTimer := by rfl) : LineKeeps p l m :=
  ⟨fun h => ⟨h1.length_le.trans h.1, h2.length_le.trans h.2.1, (h2.map _).nodup h.2.2⟩,
    fun h => by unfold Line.CountersInRange at *; rwa [h3, h4], h5, fun _ => ⟨h6, by rw [h3], h7⟩⟩

/-- A change of a line's counters and share counter that keeps them in range. -/
theorem LineKeeps.counting {l m : Line} (h : l.CountersInRange → m.CountersInRange) (h1 : m.prefetched = l.prefetched := by rfl)
    (h2 : m.followUp = l.followUp := by rfl) (h5 : m.pollList = l.pollList := by rfl) (h6 : m.config = l.config := by rfl)
    (h7 : m.cycleTimer = l.cycleTimer := by rfl) (h8 : m.counters.cycle = l.counters.cycle := by rfl) : LineKeeps p l m :=
  ⟨fun h => by unfold Line.QueuesInBounds at *; rwa [h1, h2], h, h5, fun _ => ⟨h6, h8, h7⟩⟩

/-- A change of a station entry that leaves what its ranges speak of alone. -/
theorem StationKeeps.same {a b : Station} (h1 : b.state = a.state := by rfl) (h2 : b.failures = a.failures := by rfl)
    (h3 : b.threshold = a.threshold := by rfl) (h4 : b.reprobe = a.reprobe := by rfl) (h5 : b.good = a.good := by rfl)
    (h6 : b.failed = a.failed := by rfl) : StationKeeps a b :=
  ⟨fun h => by unfold Station.HealthInRange at *; rwa [h1, h2, h3], fun h => by unfold Station.ReprobeOnlyOffline at *; rwa [h1, h4],
    fun h => by rwa [h5], fun h => by rwa [h6]⟩

/-- A change of a poll entry that leaves its state, line and skipped counter alone. -/
theorem PollKeeps.same {a b : Poll} (h1 : b.state = a.state := by rfl) (h2 : b.line = a.line := by rfl)
    (h3 : b.skipped = a.skipped := by rfl) : PollKeeps a b :=
  ⟨by rw [h1], h2, fun h => by rwa [h3]⟩

/-- A change of an entry in use that leaves it in use. -/
theorem PollKeeps.inUse {a b : Poll} (h : a.state ≠ .free) (k : b.state ≠ .free)
    (h3 : a.skipped ≤ Config.counterMax → b.skipped ≤ Config.counterMax := by exact fun h => h) (h2 : b.line = a.line := by rfl) :
    PollKeeps a b :=
  ⟨⟨fun e => absurd e k, fun e => absurd e h⟩, h2, h3⟩

theorem satSucc_le {cap n : Nat} : satSucc cap n ≤ cap := by
  unfold satSucc
  split <;> omega

theorem Moves.hbi {s : State} (f : Hbi → Hbi) (h1 : (f s.hbi).device = s.hbi.device := by rfl)
    (h2 : (f s.hbi).faultCause = s.hbi.faultCause := by rfl)
    (h3 : s.hbi.attention ||| (f s.hbi).attention = (f s.hbi).attention := by exact BitVec.or_self) :
    Moves p s (s.modHbi f) := by
  refine (Move.hbi s f (fun h => ⟨h1.trans h, h2⟩) ?_).run
  cases p with
  | any => trivial
  | working => exact ⟨fun h => h1.symm ▸ h, h3⟩
  | still => exact ⟨h1, h3⟩

/-- A change of the device state that does not stop the device. -/
theorem Moves.device {s : State} (f : Hbi → Hbi) (h : s.hbi.device ≠ .faulted) (k : (f s.hbi).device ≠ .faulted := by simp)
    (h3 : (f s.hbi).attention = s.hbi.attention := by rfl) : Moves .working s (s.modHbi f) :=
  (Move.hbi (p := .working) s f (fun e => absurd e h) ⟨fun _ => k, by rw [h3, BitVec.or_self]⟩).run

theorem Moves.anyHbi {s : State} (f : Hbi → Hbi) (h : s.hbi.device ≠ .faulted) : Moves .any s (s.modHbi f) :=
  (Move.hbi (p := .any) s f (fun e => absurd e h) trivial).run

theorem Moves.ringUnit {s : State} (f : RingUnit → RingUnit) (h1 : (f s.ringUnit).rings = s.ringUnit.rings := by rfl)
    (h2 : (f s.ringUnit).faultCount = s.ringUnit.faultCount := by rfl) : Moves p s (s.modRingUnit f) :=
  (Move.ringUnit s f fun _ => ⟨h1, h2⟩).run

theorem Moves.rings {s : State} (f : RingUnit → RingUnit) (h : s.hbi.device ≠ .faulted) : Moves p s (s.modRingUnit f) :=
  (Move.ringUnit s f fun e => absurd e h).run

/-- A change of the round-robin pointer or of the scanner's place. -/
theorem Moves.writer {s : State} (f : CompletionWriter → CompletionWriter) (q : Fin 7) (m : SlotId)
    (h : f s.writer = { s.writer with pointer := q, noticeNext := m } := by rfl) : Moves p s (s.modWriter f) :=
  (Move.writer s f (by rw [h]) (fun k => by rw [h]; exact k) (fun _ => by rw [h]; exact ⟨rfl, rfl, rfl⟩) fun _ => ⟨q, m, h⟩).run

/-- A change of the Completion Writer that leaves the queue, the indices and the moderation count alone. -/
theorem Moves.anyWriter {s : State} (f : CompletionWriter → CompletionWriter) (h1 : (f s.writer).holding = s.writer.holding := by rfl)
    (h2 : s.writer.moderationCount ≤ 255 → (f s.writer).moderationCount ≤ 255 := by exact fun h => h)
    (h3 : (f s.writer).producer = s.writer.producer := by rfl) (h4 : (f s.writer).released = s.writer.released := by rfl) :
    Moves .any s (s.modWriter f) :=
  (Move.writer s f (by rw [h1]) h2 (fun _ => ⟨h1, h3, h4⟩) fun e => absurd rfl e).run

/-- A change of the Completion Writer of a device that is not FAULTED. -/
theorem Moves.workingWriter {s : State} (f : CompletionWriter → CompletionWriter) (h : s.hbi.device ≠ .faulted)
    (queue : (f s.writer).holding.length ≤ s.writer.holding.length)
    (count : s.writer.moderationCount ≤ 255 → (f s.writer).moderationCount ≤ 255 := by exact fun h => h) :
    Moves .any s (s.modWriter f) :=
  (Move.writer s f queue count (fun e => absurd e h) fun e => absurd rfl e).run

/-- A new progress of the Admin Processor that is no DEFINE POLL's data write. -/
theorem Moves.admin {s : State} (a : Admin) (h : ∀ tag x, a ≠ .writing tag (.definePoll x) := by simp) : Moves p s (s.setAdmin a) :=
  (Move.admin s a fun tag x e => absurd e (h tag x)).run

theorem Moves.capture {s : State} (f : Capture → Capture) : Moves p s (s.modCapture f) := (Move.capture s f).run

theorem Moves.free {s : State} : Moves p s s.nextFree := (Move.free s).run

theorem Moves.line {s : State} (n : LineId) {f : Line → Line} (h : LineKeeps p (s.line n) (f (s.line n)) := by exact .same) :
    Moves p s (s.modLine n f) := (Move.line s n f h).run

theorem Moves.station {s : State} (k : SlotId) {f : Station → Station}
    (h : StationKeeps (s.station k) (f (s.station k)) := by exact .same) : Moves p s (s.modStation k f) := (Move.station s k f h).run

theorem Moves.poll {s : State} (k : PollId) {f : Poll → Poll} (h : PollKeeps (s.poll k) (f (s.poll k)) := by exact .same) :
    Moves p s (s.modPoll k f) := (Move.poll s k f h).run

theorem Moves.freePoll {s : State} (id : PollId) : Moves p s (s.freePoll id) := (Move.freePoll s id).run

theorem Moves.foldl {α : Type} {f : State → α → State} (h : ∀ s a, Moves p s (f s a)) (as : List α) (s : State) :
    Moves p s (as.foldl f s) := by
  induction as generalizing s with
  | nil => exact .refl s
  | cons a as ih => exact (h s a).trans (ih _)

end Sys2Proof.Machine
end

