-- ==== Sys2Proof/Laws/Blocks.lean ====
section
/-! SUPPORT. The shared operations of the blocks as moves (Flags, Capture, Station, Ops), and what each leaves alone. -/

namespace Sys2Proof.Machine

-- One theorem at a time: the proofs of this file side by side need more memory than a check may have.
set_option Elab.async false

variable {pace : Pace}

/-! ## Attention, line events, ring faults -/

theorem State.latch_moves (s : State) (c : Cause) : Moves pace s (s.latch c) :=
  Moves.hbi _ rfl rfl (by simp only [← BitVec.or_assoc, BitVec.or_self])

@[simp] theorem State.latch_lines (s : State) (c : Cause) : (s.latch c).lines = s.lines := rfl

@[simp] theorem State.latch_device (s : State) (c : Cause) : (s.latch c).hbi.device = s.hbi.device := rfl

@[simp] theorem State.latch_writer (s : State) (c : Cause) : (s.latch c).writer = s.writer := rfl

@[simp] theorem State.latch_attention (s : State) (c : Cause) :
    (s.latch c).hbi.attention = s.hbi.attention ||| causeBit c := rfl

theorem Line.recordEvent_keeps (l : Line) (c : LineCause) : LineKeeps pace l (l.recordEvent c) := by
  cases c <;> exact .same

theorem State.lineEvent_moves (s : State) (n : LineId) (c : LineCause) : Moves pace s (s.lineEvent n c) :=
  (Moves.line n (Line.recordEvent_keeps _ c)).trans (State.latch_moves _ _)

theorem State.markShadow_moves (s : State) : Moves pace s s.markShadow := Moves.ringUnit _

theorem State.ringFault_moves {s : State} (h : s.hbi.device ≠ .faulted) (cause : RingFaultCause) (id : BitVec 4) :
    Moves pace s (s.ringFault cause id) := (Moves.rings _ h).trans (State.latch_moves _ _)

theorem State.faultRing_moves {s : State} (h : s.hbi.device ≠ .faulted) (r : RingId) (cause : RingFaultCause) :
    Moves pace s (s.faultRing r cause) := 
  (Moves.rings _ h).trans (State.ringFault_moves (s := s.modRing r _) h _ _)

/-! ## The Capture Unit changes its own state and ATTENTION alone -/

theorem State.evaluatePause_moves (s : State) : Moves pace s s.evaluatePause := by
  unfold State.evaluatePause
  split
  · exact .refl s
  · dsimp only
    split
    · exact (Moves.capture _).trans (State.latch_moves _ _)
    · split
      · exact (Moves.capture _).trans (State.latch_moves _ _)
      · exact .refl s

/-- Pause evaluation leaves everything but the Capture Unit and ATTENTION alone. -/
theorem State.evaluatePause_frame (s : State) :
    s.evaluatePause.lines = s.lines ∧ s.evaluatePause.writer = s.writer ∧ s.evaluatePause.stations = s.stations ∧
      s.evaluatePause.polls = s.polls ∧ s.evaluatePause.admin = s.admin ∧ s.evaluatePause.hbi.device = s.hbi.device := by
  unfold State.evaluatePause
  split
  · exact ⟨rfl, rfl, rfl, rfl, rfl, rfl⟩
  · dsimp only
    split
    · exact ⟨rfl, rfl, rfl, rfl, rfl, rfl⟩
    · split <;> exact ⟨rfl, rfl, rfl, rfl, rfl, rfl⟩

theorem State.returnReservation_moves (s : State) : Moves pace s s.returnReservation :=
  (Moves.capture _).trans (State.evaluatePause_moves _)

/-- A returned reservation leaves everything but the Capture Unit and ATTENTION alone. -/
theorem State.returnReservation_frame (s : State) :
    s.returnReservation.lines = s.lines ∧ s.returnReservation.writer = s.writer ∧ s.returnReservation.stations = s.stations ∧
      s.returnReservation.polls = s.polls ∧ s.returnReservation.admin = s.admin ∧
      s.returnReservation.hbi.device = s.hbi.device := by
  unfold State.returnReservation
  have h := State.evaluatePause_frame (s.modCapture fun c => { c with reserved := c.reserved - Config.reservationBytes })
  simpa using h

theorem State.reserve_moves (s : State) : Moves pace s s.reserve := (Moves.capture _).trans (State.evaluatePause_moves _)

theorem State.reserve_lines (s : State) : s.reserve.lines = s.lines := (State.evaluatePause_frame _).1

theorem State.discardStaged_moves (s : State) (n : LineId) : Moves pace s (s.discardStaged n) :=
  ((Moves.capture _).trans (Moves.capture _)).trans (State.returnReservation_moves _)

theorem State.place_moves (s : State) (n : LineId) (f : Staged) (g : CaptureConfig) : Moves pace s (s.place n f g) :=
  (Moves.capture _).trans (State.returnReservation_moves _)

theorem State.handOver_moves (s : State) (n : LineId) (b : Bool) : Moves pace s (s.handOver n b) := by
  unfold State.handOver
  split
  · split
    · exact s.discardStaged_moves n
    · exact s.place_moves n _ _
  · exact s.discardStaged_moves n
  · exact s.returnReservation_moves

theorem State.captureFault_moves (s : State) : Moves pace s s.captureFault := (Moves.capture _).trans (State.latch_moves _ _)

theorem State.captureReleaseTo_moves (s : State) (v : Nat) : Moves pace s (s.captureReleaseTo v) := by
  unfold State.captureReleaseTo
  split
  · exact .refl s
  · split
    · exact (Moves.capture _).trans (State.evaluatePause_moves _)
    · exact (Moves.capture _).trans (State.latch_moves _ _)

theorem State.recordWritten_moves (s : State) (p : Placed) (g : CaptureConfig) : Moves pace s (s.recordWritten p g) := by
  unfold State.recordWritten
  dsimp only
  split
  · exact ((Moves.capture _).trans (State.latch_moves _ _)).trans (State.latch_moves _ _)
  · exact (Moves.capture _).trans (State.latch_moves _ _)

/-! ## Station entries -/

theorem Station.success_keeps (a : Station) : StationKeeps a a.success := by
  constructor <;> unfold Station.success <;> split <;> intro h <;>
    simp_all [Station.HealthInRange, Station.ReprobeOnlyOffline]
  all_goals omega

theorem Station.failure_keeps (a : Station) : StationKeeps a a.failure := by
  constructor <;> unfold Station.failure <;> split <;> (try split) <;> intro h <;>
    simp_all [Station.HealthInRange, Station.ReprobeOnlyOffline, Station.enterOffline] <;> omega

theorem Station.account_keeps (a : Station) (c : HealthClass) : StationKeeps a (a.account c) := by
  cases c with
  | success =>
    obtain ⟨h1, h2, h3, h4⟩ := a.success_keeps
    exact ⟨fun h => h1 h, fun h => h2 h, fun _ => satSucc_le, h4⟩
  | failure =>
    obtain ⟨h1, h2, h3, h4⟩ := a.failure_keeps
    exact ⟨fun h => h1 h, fun h => h2 h, h3, fun _ => satSucc_le⟩
  | neutral => exact .same

theorem StationKeeps.trans {a b c : Station} (h : StationKeeps a b) (k : StationKeeps b c) : StationKeeps a c :=
  ⟨fun x => k.health (h.health x), fun x => k.reprobe (h.reprobe x), fun x => k.good (h.good x), fun x => k.failed (h.failed x)⟩

theorem Station.exchangeEnd_keeps (a : Station) (status : Status) (sent : Bool) : StationKeeps a (a.exchangeEnd status sent) := by
  refine StationKeeps.trans ?_ (Station.account_keeps _ _)
  unfold Station.resyncDecision
  split
  · exact .same
  · exact .same

theorem Station.adjustThreshold_keeps (a : Station) (threshold : Nat) (h : 1 ≤ threshold ∧ threshold ≤ 15) (b : Station)
    (hs : b.state = a.state) (hf : b.failures = a.failures) (ht : b.threshold = threshold) (hr : b.reprobe = a.reprobe)
    (hg : b.good = a.good) (hd : b.failed = a.failed) : StationKeeps a b.adjustThreshold := by
  constructor <;> unfold Station.adjustThreshold <;> rw [hs] <;> split <;> (try split) <;> intro k <;>
    simp_all [Station.HealthInRange, Station.ReprobeOnlyOffline, Station.enterOffline]

theorem Station.modify_keeps (a : Station) {threshold : Nat} (h : 1 ≤ threshold ∧ threshold ≤ 15) (rt rl ri : Nat) (ce : Bool) :
    StationKeeps a (a.modify rt rl threshold ri ce) :=
  a.adjustThreshold_keeps threshold h _ rfl rfl rfl rfl rfl rfl

theorem Station.define_keeps (a : Station) {threshold : Nat} (h : 1 ≤ threshold ∧ threshold ≤ 15) (line : LineId)
    (address : BitVec 7) (rt rl ri : Nat) (ce : Bool) : StationKeeps a (Station.define line address rt rl threshold ri ce) :=
  ⟨fun _ => ⟨h.1, h.2⟩, fun _ _ => rfl, fun _ => Nat.zero_le _, fun _ => Nat.zero_le _⟩

theorem Station.absent_keeps (a : Station) : StationKeeps a .absent :=
  ⟨fun _ => rfl, fun _ _ => rfl, fun _ => Nat.zero_le _, fun _ => Nat.zero_le _⟩

theorem Station.hold_keeps (a : Station) : StationKeeps a a.hold := by
  unfold Station.hold
  split
  · exact .same
  · refine ⟨fun k => ?_, fun _ _ => rfl, fun k => k, fun k => k⟩
    simp only [Station.HealthInRange] at *
    cases e : a.state <;> simp_all <;> omega

theorem Station.release_keeps (a : Station) (h : a.state = .held) : StationKeeps a a.release := by
  refine ⟨fun k => ?_, fun k _ => ?_, fun k => k, fun k => k⟩
  · simp only [Station.HealthInRange, Station.release, h] at *
    omega
  · exact k (by simp [h])

/-! ## Claims -/

theorem State.grantTo_moves {s : State} (room : s.hasRoom = true) (h : s.hbi.device ≠ .faulted) (k : Fin 7) (c : Completion) :
    Moves pace s (s.grantTo k c) := (Move.join s _ c _ room h rfl).run

/-- A claim granted at once: an entry was free and the device not FAULTED, and the completion stands at the tail (R151). -/
theorem State.tryClaim_some {s t : State} {k : Fin 7} {c : Completion} (h : s.tryClaim k c = some t) :
    s.hasRoom = true ∧ s.hbi.device ≠ .faulted ∧ t = s.grantTo k c := by
  unfold State.tryClaim at h
  split at h
  · next e => simp only [Bool.and_eq_true, bne_iff_ne] at e; exact ⟨e.1, e.2, (Option.some.inj h).symm⟩
  · cases h

theorem State.tryClaim_moves {s t : State} {k : Fin 7} {c : Completion} (h : s.tryClaim k c = some t) : Moves pace s t := by
  obtain ⟨room, device, rfl⟩ := State.tryClaim_some h
  exact State.grantTo_moves room device k c

theorem State.placeReport_moves (s : State) (c : Completion) : Moves pace s (s.placeReport c) := by
  unfold State.placeReport
  split
  · next h =>
    simp only [Bool.and_eq_true, bne_iff_ne] at h
    exact (Move.join s _ c _ h.1 h.2 rfl).run
  · exact .refl s

theorem State.postNotice_moves {s : State} (room : s.hasRoom = true) (h : s.hbi.device ≠ .faulted) (k : SlotId) :
    Moves pace s (s.postNotice k) :=
  ((State.grantTo_moves room h _ _).trans (Moves.station k)).trans (Moves.writer _ _ _)

theorem State.postNotices_moves (s : State) : Moves pace s s.postNotices := by
  unfold State.postNotices
  generalize Config.holdingDepth = fuel
  induction fuel generalizing s with
  | zero => exact .refl s
  | succ fuel ih =>
    unfold State.postNoticesFuel
    split
    · next h =>
      simp only [Bool.and_eq_true, bne_iff_ne] at h
      split
      · exact (State.postNotice_moves h.1 h.2 _).trans (ih _)
      · exact .refl s
    · exact .refl s

/-! ## Follow-up entries and deferred commands -/

theorem State.returnFor_moves (s : State) (f : FollowUp) : Moves pace s (s.returnFor f) := by
  unfold State.returnFor
  split
  · exact s.returnReservation_moves
  · exact .refl s

theorem State.dropFollowUps_moves (s : State) (n : LineId) (gone : FollowUp → Bool) : Moves pace s (s.dropFollowUps n gone) :=
  (Moves.line n (.shorter (List.Sublist.refl _) List.filter_sublist)).trans (Moves.foldl State.returnFor_moves _ _)

/-- Dropping follow-up entries leaves the stations, the polls, the admin command and the completions alone. -/
theorem State.returnFor_frame (s : State) (f : FollowUp) :
    (s.returnFor f).lines = s.lines ∧ (s.returnFor f).writer = s.writer ∧ (s.returnFor f).stations = s.stations ∧
      (s.returnFor f).polls = s.polls ∧ (s.returnFor f).admin = s.admin ∧ (s.returnFor f).hbi.device = s.hbi.device := by
  unfold State.returnFor
  split
  · exact s.returnReservation_frame
  · exact ⟨rfl, rfl, rfl, rfl, rfl, rfl⟩

theorem State.dropFollowUps_stations (s : State) (n : LineId) (gone : FollowUp → Bool) :
    (s.dropFollowUps n gone).stations = s.stations := by
  unfold State.dropFollowUps
  generalize List.filter gone _ = fs
  have h : ∀ t : State, (fs.foldl State.returnFor t).stations = t.stations := by
    induction fs with
    | nil => exact fun _ => rfl
    | cons f fs ih => exact fun t => (ih _).trans (t.returnFor_frame f).2.2.1
  exact h _

theorem State.dropStation_moves (s : State) (k : SlotId) : Moves pace s (s.dropStation k) := s.dropFollowUps_moves _ _

theorem State.dropStation_station (s : State) (k j : SlotId) : (s.dropStation k).station j = s.station j :=
  State.station_congr (s.dropFollowUps_stations _ _) j

theorem State.applyHold_moves (s : State) (k : SlotId) : Moves pace s (s.applyHold k) :=
  (s.dropStation_moves k).trans (Moves.station k (Station.hold_keeps _))

theorem State.applyRemove_moves (s : State) (k : SlotId) : Moves pace s (s.applyRemove k) :=
  (s.dropStation_moves k).trans (Moves.station k (Station.absent_keeps _))

theorem State.adminClaim_moves (s : State) (c : Completion) : Moves pace s (s.adminClaim c) := by
  unfold State.adminClaim
  split
  · exact Moves.admin _
  · split
    · next h => exact (State.tryClaim_moves h).trans (Moves.admin _)
    · exact Moves.admin _

end Sys2Proof.Machine
end

