-- ==== Sys2Proof/Laws/Exchanges.lean ====
section
/-! SUPPORT. The operations of the lines as moves: deferred commands, the arbiter, the course of an exchange, the cycle start and the
receiver (Ops, Engine, Arbiter, Exchange, Cycle, Receiver). -/

namespace Sys2Proof.Machine

-- One theorem at a time: the proofs of this file side by side need more memory than a check may have.
set_option Elab.async false

variable {pace : Pace}

theorem LineKeeps.trans {a b c : Line} (h : LineKeeps pace a b) (k : LineKeeps pace b c) : LineKeeps pace a c :=
  ⟨fun x => k.queues (h.queues x), fun x => k.counters (h.counters x), k.list.trans h.list, fun e =>
    ⟨(k.pace e).1.trans (h.pace e).1, (k.pace e).2.1.trans (h.pace e).2.1, (k.pace e).2.2.trans (h.pace e).2.2⟩⟩

/-! ## Deferred commands -/

theorem AdminWait.apply_moves (w : AdminWait) (s : State) : Moves pace s (w.apply s) := by
  cases w with
  | stopLine => exact .refl s
  | holdStation k => exact s.applyHold_moves k
  | removeStation k => exact s.applyRemove_moves k
  | deletePoll => exact .refl s
  | setCapture g => exact Moves.capture (s := s) fun c => c.reconfigure g

theorem State.deferredApply_moves (s : State) : Moves pace s s.deferredApply := by
  unfold State.deferredApply
  split
  · split
    · exact (AdminWait.apply_moves _ _).trans (State.adminClaim_moves _ _)
    · exact .refl s
  · exact .refl s

/-! ## Preparing and dispatching -/

theorem State.modExchange_moves (s : State) (n : LineId) (f : Exchange → Exchange) : Moves pace s (s.modExchange n f) := Moves.line n

theorem State.sendFrame_moves (s : State) (n : LineId) (f : Frame) : Moves pace s (s.sendFrame n f) := Moves.line n

theorem State.prepareRequest_moves (s : State) (n : LineId) : Moves pace s (s.prepareRequest n) := by
  unfold State.prepareRequest
  split
  · exact .refl s
  · split
    · exact Moves.line n
    · exact s.sendFrame_moves n _

theorem State.prepareFirst_moves (s : State) (n : LineId) : Moves pace s (s.prepareFirst n) := by
  unfold State.prepareFirst
  split
  · exact .refl s
  · split
    · exact s.sendFrame_moves n _
    · exact s.prepareRequest_moves n

theorem State.takeBound_moves (s : State) (n : LineId) (x : Exchange) (k : SlotId) : Moves pace s (s.takeBound n x k) :=
  ((Moves.line n).trans (Moves.station k)).trans (State.prepareFirst_moves _ n)

theorem State.takeBroadcast_moves (s : State) (n : LineId) (r : Request) : Moves pace s (s.takeBroadcast n r) :=
  (Moves.line n).trans (State.prepareFirst_moves _ n)

theorem State.claimOrWait_moves (s : State) (n : LineId) (c : Completion) : Moves pace s (s.claimOrWait n c) := by
  unfold State.claimOrWait
  split
  · next h => exact State.tryClaim_moves h
  · exact Moves.line n

theorem Line.shareAfterRequest_keeps (l : Line) (r : Request) : LineKeeps pace l (l.shareAfterRequest r) := by
  unfold Line.shareAfterRequest
  split
  · exact .same
  · exact .counting fun ⟨h1, h2, h3, h4, h5, h6, h7, _⟩ => ⟨h1, h2, h3, h4, h5, h6, h7, Nat.zero_le _⟩

theorem State.dispatchRequest_moves (s : State) (n : LineId) (r : Request) : Moves pace s (s.dispatchRequest n r) := by
  have pass : Moves pace s (s.modLine n fun l => l.shareAfterRequest r) := Moves.line n (Line.shareAfterRequest_keeps _ r)
  unfold State.dispatchRequest
  dsimp only
  split
  · exact pass.trans (State.takeBroadcast_moves _ _ _)
  · split
    · exact s.claimOrWait_moves n _
    · split
      · exact s.claimOrWait_moves n _
      · split
        · exact pass.trans (State.takeBound_moves _ _ _ _)
        · exact s.claimOrWait_moves n _
      all_goals exact pass.trans (State.takeBound_moves _ _ _ _)

theorem State.dispatchPoll_moves {s : State} (n : LineId) {id : PollId} (used : (s.poll id).state ≠ .free) :
    Moves pace s (s.dispatchPoll n id) := by
  have shared (t : State) : Moves pace t (t.modLine n fun l => { l with share := satSucc 15 l.share }) :=
    Moves.line n (.counting fun ⟨h1, h2, h3, h4, h5, h6, h7, _⟩ => ⟨h1, h2, h3, h4, h5, h6, h7, satSucc_le⟩)
  unfold State.dispatchPoll
  dsimp only
  split
  · exact ((Moves.poll id (.inUse used (by simp))).trans (shared _)).trans (State.takeBound_moves _ _ _ _)
  · have skipped := Moves.poll (p := pace) (s := s) id (f := fun q =>
      { q with state := .idle, skipped := satSucc Config.counterMax q.skipped }) (.inUse used (by simp) fun _ => satSucc_le)
    split
    · exact skipped.trans (State.claimOrWait_moves _ n _)
    · exact skipped

theorem State.dispatchFollowUp_moves (s : State) (n : LineId) (f : FollowUp) : Moves pace s (s.dispatchFollowUp n f) := by
  unfold State.dispatchFollowUp
  extract_lets state passes
  split
  · exact s.takeBound_moves n _ _
  · exact (s.returnFor_moves f).trans (State.deferredApply_moves _)

/-- The work chosen, when it is a poll entry, is DUE (R114 step 4). -/
theorem State.nextWork_poll {s : State} {n : LineId} {id : PollId} (h : s.nextWork n = some (.poll id)) :
    (s.poll id).state = .due := by
  unfold State.nextWork at h
  simp only [Option.orElse_eq_or, Option.or_eq_some_iff, Option.map_eq_some_iff, reduceCtorEq, and_false, exists_false, false_or,
    or_false, Work.poll.injEq, exists_eq_right] at h
  obtain ⟨-, -, -, h⟩ := h
  have := List.find?_some (p := fun id => (s.poll id).state == .due) h
  simpa using this

theorem State.dispatch_moves {s : State} (n : LineId) {w : Work} (h : s.nextWork n = some w) : Moves pace s (s.dispatch n w) := by
  cases w with
  | request r =>
    exact (Moves.line n (.shorter List.eraseP_sublist (List.Sublist.refl _))).trans (State.dispatchRequest_moves _ n r)
  | poll id => exact State.dispatchPoll_moves n (by rw [State.nextWork_poll h]; simp)
  | followUp f =>
    exact (Moves.line n (.shorter (List.Sublist.refl _) (List.drop_sublist _ _))).trans (State.dispatchFollowUp_moves _ n f)

theorem State.arbiterChoice_moves (s : State) (n : LineId) : Moves pace s (s.arbiterChoice n) := by
  unfold State.arbiterChoice
  generalize (s.line n).workCount + 1 = fuel
  induction fuel generalizing s with
  | zero => exact .refl s
  | succ fuel ih =>
    unfold State.chooseLoop
    split
    · split
      · next h => exact (State.dispatch_moves n h).trans (ih _)
      · exact .refl s
    · exact .refl s

theorem State.abortPrefetched_moves (s : State) (n : LineId) : Moves pace s (s.abortPrefetched n) := by
  unfold State.abortPrefetched
  generalize (s.line n).prefetched.length = fuel
  induction fuel generalizing s with
  | zero => exact .refl s
  | succ fuel ih =>
    unfold State.abortLoop
    split
    · next h =>
      exact ((Moves.line n (.shorter (by rw [h]; exact List.sublist_cons_self _ _) (List.Sublist.refl _))).trans
        (State.claimOrWait_moves _ n _)).trans (ih _)
    · exact .refl s

/-! ## Leaving an exchange -/

theorem State.freePoll_moves (s : State) (id : PollId) : Moves pace s (s.freePoll id) := Moves.freePoll id

theorem State.settlePoll_moves (s : State) (id : PollId) : Moves pace s (s.settlePoll id) := by
  unfold State.settlePoll
  split
  · next h => exact Moves.poll id (.inUse (by rw [h]; simp) (by dsimp only; split <;> simp))
  · exact s.freePoll_moves id
  all_goals exact .refl s

theorem State.leaveExchange_moves (s : State) (n : LineId) : Moves pace s (s.leaveExchange n) := by
  unfold State.leaveExchange
  split
  · exact .refl s
  · next x _ =>
    dsimp only
    have free : Moves pace s (match x.station with
        | some k => s.modStation k fun st => { st with busy := false }
        | none => s) := by
      split
      · exact Moves.station _
      · exact .refl s
    split
    · exact free.trans (State.settlePoll_moves _ _)
    all_goals exact free

theorem State.enterIdle_moves (s : State) (n : LineId) : Moves pace s (s.enterIdle n) := by
  have h : Moves pace s ((s.leaveExchange n).modLine n Line.idle).deferredApply :=
    ((s.leaveExchange_moves n).trans (Moves.line n)).trans (State.deferredApply_moves _)
  unfold State.enterIdle
  dsimp only
  split
  · exact h.trans (State.abortPrefetched_moves _ n)
  · split
    · exact h
    · exact h.trans (State.arbiterChoice_moves _ n)

theorem State.enterOff_moves (s : State) (n : LineId) : Moves pace s (s.enterOff n) :=
  ((s.leaveExchange_moves n).trans (Moves.line n)).trans (State.deferredApply_moves _)

theorem State.endClaim_moves (s : State) (n : LineId) (c : Completion) : Moves pace s (s.endClaim n c) := by
  unfold State.endClaim
  split
  · next h => exact (State.tryClaim_moves h).trans (State.enterIdle_moves _ n)
  · exact Moves.line n

/-! ## The exchange end -/

/-- An accepted offer finds room and no entry for the station (R111). -/
theorem State.offerAccepted_room {s : State} {n : LineId} {k : SlotId} (h : s.offerAccepted n k = true) :
    (s.line n).followUp.length < Config.followUpDepth ∧ ∀ f ∈ (s.line n).followUp, f.slot ≠ k := by
  unfold State.offerAccepted at h
  simp only [Bool.and_eq_true, decide_eq_true_eq, List.all_eq_true, bne_iff_ne] at h
  exact ⟨h.1.2, h.1.1.2⟩

/-- A follow-up entry that joins where there is room and no entry for its station keeps the bounds (R110). -/
theorem LineKeeps.joinFollowUp {l : Line} {f : FollowUp} (room : l.followUp.length < Config.followUpDepth)
    (new : ∀ g ∈ l.followUp, g.slot ≠ f.slot) : LineKeeps pace l { l with followUp := l.followUp ++ [f] } := by
  refine ⟨fun ⟨h1, _, h3⟩ => ⟨h1, ?_, ?_⟩, id, rfl, fun _ => ⟨rfl, rfl, rfl⟩⟩
  · simp only [List.length_append, List.length_cons, List.length_nil]
    omega
  · simp only [List.map_append, List.map_cons, List.map_nil, List.nodup_append, List.nodup_cons, List.not_mem_nil,
      not_false_eq_true, List.nodup_nil, and_self, List.mem_map, forall_exists_index, and_imp, List.mem_cons, or_false,
      forall_apply_eq_imp_iff₂, true_and]
    exact ⟨h3, fun g hg a ha => ha ▸ new g hg⟩

theorem State.offerFetch_moves (s : State) (n : LineId) (k : SlotId) : Moves pace s (s.offerFetch n k) := by
  unfold State.offerFetch
  split
  · next h =>
    have e : s.reserve.line n = s.line n := State.line_congr s.reserve_lines n
    obtain ⟨room, new⟩ := State.offerAccepted_room h
    exact s.reserve_moves.trans (Moves.line n (e.symm ▸ .joinFollowUp room new))
  · exact .refl s

theorem State.offerFor_moves (s : State) (n : LineId) (x : Exchange) : Moves pace s (s.offerFor n x) := by
  unfold State.offerFor
  split
  · exact s.offerFetch_moves n _
  · exact .refl s

theorem State.pollReport_moves (s : State) (n : LineId) (id : PollId) (x : Exchange) : Moves pace s (s.pollReport n id x) := by
  unfold State.pollReport
  dsimp only
  have h := (Moves.poll (p := pace) (s := s) id (f := fun q => q.afterReport ((s.poll id).finalStatus x (s.line n).cutting) x.signature)).trans
    (State.offerFor_moves _ n x)
  split
  · exact h.trans (State.endClaim_moves _ n _)
  · exact h.trans (State.enterIdle_moves _ n)

theorem State.deliverSlot_moves (s : State) (n : LineId) (id : PollId) (x : Exchange) : Moves pace s (s.deliverSlot n id x) := by
  unfold State.deliverSlot
  dsimp only
  split
  · exact s.pollReport_moves n id x
  · exact (Moves.poll id).trans (Moves.line n)

theorem State.accountExchange_moves (s : State) (x : Exchange) (status : Status) : Moves pace s (s.accountExchange x status) := by
  unfold State.accountExchange
  split
  · exact (Moves.station _ (Station.exchangeEnd_keeps _ _ _)).trans (State.postNotices_moves _)
  · exact .refl s

theorem State.informBlocks_moves (s : State) (n : LineId) (x : Exchange) : Moves pace s (s.informBlocks n x) := by
  unfold State.informBlocks
  split
  · exact s.deliverSlot_moves n _ x
  · exact (s.offerFor_moves n x).trans (State.endClaim_moves _ n _)
  · split
    · exact (((s.handOver_moves n _).trans (State.deferredApply_moves _)).trans (State.offerFor_moves _ n x)).trans
        (State.enterIdle_moves _ n)
    · exact (s.offerFor_moves n x).trans (State.enterIdle_moves _ n)

theorem State.endExchange_moves (s : State) (n : LineId) (status : Status) (detail : Byte) :
    Moves pace s (s.endExchange n status detail) := by
  unfold State.endExchange
  split
  · exact .refl s
  · exact ((Moves.line n).trans (State.accountExchange_moves _ _ _)).trans (State.informBlocks_moves _ n _)

theorem State.faultEnd_moves (s : State) (n : LineId) : Moves pace s (s.faultEnd n) := by
  unfold State.faultEnd
  split
  · exact s.enterOff_moves n
  · split
    · exact s.enterOff_moves n
    · exact (s.accountExchange_moves _ _).trans (State.enterOff_moves _ n)

theorem State.cutEnd_moves (s : State) (n : LineId) : Moves pace s (s.cutEnd n) := by
  unfold State.cutEnd
  split
  · exact s.faultEnd_moves n
  · exact s.endExchange_moves n _ _

theorem State.failAttempt_moves (s : State) (n : LineId) (kind : FailureKind) : Moves pace s (s.failAttempt n kind) := by
  unfold State.failAttempt
  split
  · exact .refl s
  · extract_lets y t
    have h : Moves pace s t := Moves.line n
    split
    · exact h.trans (Moves.line n)
    · exact h.trans (State.endExchange_moves _ n _ _)

/-! ## Responses -/

theorem State.afterWrite_moves (s : State) (n : LineId) (a : AfterWrite) : Moves pace s (s.afterWrite n a) := by
  cases a with
  | finish status => exact s.endExchange_moves n _ _
  | continueRead => exact (s.modExchange_moves n _).trans (State.prepareRequest_moves _ n)

theorem State.writeReply_moves (s : State) (n : LineId) (address : Word) (bytes : List Byte) (next : AfterWrite) :
    Moves pace s (s.writeReply n address bytes next) := by
  unfold State.writeReply
  split
  · exact s.afterWrite_moves n next
  · exact Moves.line n

theorem State.acceptBusy_moves (s : State) (n : LineId) (x : Exchange) : Moves pace s (s.acceptBusy n x) := by
  unfold State.acceptBusy
  dsimp only
  split
  · exact (s.modExchange_moves n _).trans (Moves.line n)
  · exact (s.modExchange_moves n _).trans (State.endExchange_moves _ n _ _)

theorem State.acceptRefuse_moves (s : State) (n : LineId) (x : Exchange) (reason : Byte) (ev : Bool) :
    Moves pace s (s.acceptRefuse n x reason ev) := by
  unfold State.acceptRefuse
  dsimp only
  split
  · exact (Moves.station _).trans (State.endExchange_moves _ n _ _)
  · exact s.endExchange_moves n _ _

theorem State.acceptSyncReply_moves (s : State) (n : LineId) (x : Exchange) : Moves pace s (s.acceptSyncReply n x) := by
  unfold State.acceptSyncReply
  dsimp only
  split <;> split
  · exact (Moves.station _).trans (State.endExchange_moves _ n _ _)
  · exact s.endExchange_moves n _ _
  · exact (Moves.station _).trans (State.prepareRequest_moves _ n)
  · exact s.prepareRequest_moves n

theorem State.segmentAcknowledged_moves (s : State) (n : LineId) (f : Frame) : Moves pace s (s.segmentAcknowledged n f) := by
  unfold State.segmentAcknowledged
  dsimp only
  split
  · exact ((s.modExchange_moves n _).trans (State.modExchange_moves _ n _)).trans (State.prepareRequest_moves _ n)
  · exact (s.modExchange_moves n _).trans (State.endExchange_moves _ n _ _)

theorem State.takeReply_moves (s : State) (n : LineId) (x : Exchange) (f : Frame) (payload : List Byte) (more : Bool) :
    Moves pace s (s.takeReply n x f payload more) := by
  unfold State.takeReply
  split
  · split
    · exact s.segmentAcknowledged_moves n f
    · exact s.endExchange_moves n _ _
  · exact (s.modExchange_moves n _).trans (State.writeReply_moves _ n _ _ _)
  · exact (s.modExchange_moves n _).trans (State.endExchange_moves _ n _ _)
  · split
    · exact s.endExchange_moves n _ _
    · exact (Moves.capture _).trans (State.endExchange_moves _ n _ _)

theorem State.acceptReply_moves (s : State) (n : LineId) (x : Exchange) (f : Frame) (payload : List Byte) (more ev : Bool) :
    Moves pace s (s.acceptReply n x f payload more ev) := by
  unfold State.acceptReply
  dsimp only
  split
  · exact ((Moves.line n).trans (Moves.station _)).trans (State.takeReply_moves _ n _ _ _ _)
  · exact (Moves.line n).trans (State.takeReply_moves _ n _ _ _ _)

theorem State.discardStale_moves (s : State) (n : LineId) : Moves pace s (s.discardStale n) := by
  unfold State.discardStale
  split
  · exact s.failAttempt_moves n _
  all_goals exact Moves.line n

theorem State.actOn_moves (s : State) (n : LineId) (x : Exchange) (f : Frame) (j : Judgement) : Moves pace s (s.actOn n x f j) := by
  cases j with
  | failed kind => exact s.failAttempt_moves n kind
  | stale => exact s.discardStale_moves n
  | busy => exact s.acceptBusy_moves n x
  | refuse reason ev => exact s.acceptRefuse_moves n x reason ev
  | reply payload more ev =>
    simp only [State.actOn]
    split
    · exact s.acceptSyncReply_moves n x
    · exact s.acceptReply_moves n x f payload more ev

theorem State.judgeFrame_moves (s : State) (n : LineId) : Moves pace s (s.judgeFrame n) := by
  unfold State.judgeFrame
  split
  · exact s.actOn_moves n _ _ _
  · exact .refl s

/-! ## Sending -/

theorem State.trailEnd_moves (s : State) (n : LineId) : Moves pace s (s.trailEnd n) := by
  unfold State.trailEnd
  dsimp only
  split
  · exact s.cutEnd_moves n
  · split
    · exact s.failAttempt_moves n _
    · split
      · exact s.endExchange_moves n _ _
      · exact Moves.line n

theorem State.toTrail_moves (s : State) (n : LineId) : Moves pace s (s.toTrail n) := by
  unfold State.toTrail
  dsimp only
  split
  · exact (Moves.line n).trans (State.trailEnd_moves _ n)
  · exact Moves.line n

theorem Line.transmit_keeps (l : Line) (k : Nat) : LineKeeps pace l (l.transmit k) := .same

theorem Line.enterSend_keeps (l : Line) : LineKeeps pace l l.enterSend := .same

theorem State.toLead_moves (s : State) (n : LineId) : Moves pace s (s.toLead n) := by
  unfold State.toLead
  dsimp only
  split
  · exact (Moves.line n).trans (Moves.line n (Line.enterSend_keeps _))
  · exact Moves.line n

theorem Line.echoMismatch_keeps (l : Line) : LineKeeps pace l l.echoMismatch :=
  .counting fun ⟨h1, h2, h3, h4, h5, h6, _, h8⟩ => ⟨h1, h2, h3, h4, h5, h6, satSucc_le, h8⟩

theorem State.characterEnd_moves (s : State) (n : LineId) : Moves pace s (s.characterEnd n) := by
  unfold State.characterEnd
  dsimp only
  split
  · have h : Moves pace s (s.modLine n fun l => { l.echoMismatch with sentCount := (s.line n).sentCount + 1 }) :=
      Moves.line n ((Line.echoMismatch_keeps _).trans .same)
    exact h.trans (State.toTrail_moves _ n)
  · split
    · exact (Moves.line n).trans (State.toTrail_moves _ n)
    · exact Moves.line n (Line.transmit_keeps _ _)

/-! ## CUT and FAULTED at an engine -/

theorem State.markCut_moves (s : State) (n : LineId) : Moves pace s (s.markCut n) := Moves.line n

theorem State.cutLine_moves (s : State) (n : LineId) : Moves pace s (s.cutLine n) := by
  unfold State.cutLine
  split
  iterate 3 exact .refl s
  iterate 5 exact s.endExchange_moves n _ _
  iterate 2 exact s.markCut_moves n
  split
  · exact s.markCut_moves n
  · split
    · exact s.markCut_moves n
    · exact s.endExchange_moves n _ _

theorem State.faultWork_moves (n : LineId) (s : State) : Moves .working s (State.faultWork n s) :=
  Moves.line n ⟨fun _ => ⟨Nat.zero_le _, Nat.zero_le _, List.nodup_nil⟩, id, rfl, fun e => by cases e⟩

theorem State.faultLine_moves (n : LineId) (s : State) : Moves pace s (State.faultLine n s) := by
  unfold State.faultLine
  split
  · exact .refl s
  iterate 7 exact State.faultEnd_moves _ n
  iterate 2 exact State.markCut_moves _ n
  split
  · exact State.markCut_moves _ n
  · exact State.faultEnd_moves _ n

/-! ## The cycle start -/

theorem State.overrun_moves {s : State} (n : LineId) {id : PollId} {state : PollState} (used : (s.poll id).state ≠ .free)
    (left : state ≠ .free) : Moves pace s (s.overrun n id state) := by
  unfold State.overrun
  dsimp only
  split
  · exact (Moves.poll id (.inUse used left fun _ => satSucc_le)).trans (State.placeReport_moves _ _)
  · exact Moves.poll id (.inUse used left fun _ => satSucc_le)

theorem State.clearOverrun_moves (n : LineId) (s : State) (id : PollId) : Moves pace s (State.clearOverrun n s id) := by
  unfold State.clearOverrun
  split
  · next h => exact State.overrun_moves n (by rw [h]; simp) (by simp)
  · exact .refl s

theorem State.markEntry_moves (n : LineId) (s : State) (id : PollId) : Moves pace s (State.markEntry n s id) := by
  unfold State.markEntry
  dsimp only
  split
  · split
    · next h => exact Moves.poll id (.inUse (by rw [h]; simp) (by simp))
    · next h =>
      split
      · exact State.overrun_moves n (by rw [h]; simp) (by simp)
      · exact Moves.poll id
    all_goals exact .refl s
  · exact .refl s

theorem State.countOverruns_moves (s : State) (n : LineId) : Moves pace s (s.countOverruns n) :=
  (Moves.line n (.counting fun ⟨_, h2, h3, h4, h5, h6, h7, h8⟩ => ⟨satSucc_le, h2, h3, h4, h5, h6, h7, h8⟩)).trans
    (State.lineEvent_moves _ n _)

theorem State.settleCycle_moves (s : State) (n : LineId) : Moves pace s (s.settleCycle n) := by
  have h := (Moves.foldl (State.clearOverrun_moves (pace := pace) n) (s.line n).pollList s).trans
    (Moves.foldl (State.markEntry_moves n) (s.line n).pollList _)
  unfold State.settleCycle
  dsimp only
  split
  · exact h.trans (State.countOverruns_moves _ n)
  · exact h

theorem State.offerProbe_moves (s : State) (n : LineId) (k : SlotId) : Moves pace s (s.offerProbe n k) := by
  have served (t : State) : Moves pace t (t.modStation k fun st => { st with reprobe := 0 }) :=
    Moves.station k ⟨id, fun _ _ => rfl, id, id⟩
  unfold State.offerProbe
  dsimp only
  split
  · exact served s
  · split
    · next h =>
      simp only [Bool.and_eq_true, decide_eq_true_eq, Bool.not_eq_true', Line.holdsFor, Bool.and_true, List.any_eq_false,
        beq_iff_eq] at h
      exact (Moves.line n (.joinFollowUp h.1 h.2)).trans (served _)
    · exact .refl s

theorem State.reprobeSlot_moves (n : LineId) (s : State) (k : SlotId) : Moves pace s (State.reprobeSlot n s k) := by
  unfold State.reprobeSlot
  dsimp only
  split
  · next h =>
    have adv : Moves pace s (s.modStation k Station.advanceReprobe) := Moves.station k ⟨id, fun _ e => absurd h.1 e, id, id⟩
    split
    · exact adv.trans (State.offerProbe_moves _ n k)
    · exact adv
  · exact .refl s

theorem State.cycleWork_moves (s : State) (n : LineId) : Moves pace s (s.cycleWork n) :=
  (s.settleCycle_moves n).trans (Moves.foldl (State.reprobeSlot_moves n) allSlots _)

theorem State.runCycle_moves (s : State) (n : LineId) : Moves pace s (s.runCycle n) := by
  unfold State.runCycle
  dsimp only
  split
  · exact (s.cycleWork_moves n).trans (State.arbiterChoice_moves _ n)
  · exact s.cycleWork_moves n

theorem State.beginCycle_moves (s : State) (n : LineId) : Moves .working s (s.beginCycle n) :=
  Moves.line n ⟨id, id, rfl, fun e => by cases e⟩

theorem State.nextCycle_moves (s : State) (n : LineId) : Moves .working s (s.nextCycle n) :=
  (s.beginCycle_moves n).trans (State.runCycle_moves _ n)

theorem State.cycleExpiry_moves (s : State) (n : LineId) : Moves .working s (s.cycleExpiry n) :=
  ((s.beginCycle_moves n).trans (State.cycleWork_moves _ n)).trans (State.arbiterChoice_moves _ n)

theorem Poll.unmark_keeps (q : Poll) : PollKeeps q q.unmark := by
  refine ⟨?_, rfl, id⟩
  unfold Poll.unmark
  dsimp only
  split
  · next h => simp [h]
  · exact Iff.rfl

theorem State.clearMarks_moves (n : LineId) (s : State) : Moves pace s (State.clearMarks n s) :=
  Moves.foldl (fun _ id => Moves.poll id (Poll.unmark_keeps _)) _ _

/-! ## The receiver -/

theorem Line.countStray_keeps (l : Line) : LineKeeps pace l l.countStray :=
  .counting fun ⟨h1, h2, h3, _, h5, h6, h7, h8⟩ => ⟨h1, h2, h3, satSucc_le, h5, h6, h7, h8⟩

theorem Line.countNoise_keeps (l : Line) : LineKeeps pace l l.countNoise :=
  .counting fun ⟨h1, h2, h3, h4, h5, _, h7, h8⟩ => ⟨h1, h2, h3, h4, h5, satSucc_le, h7, h8⟩

theorem Line.countStrayFrame_keeps (l : Line) : LineKeeps pace l l.countStrayFrame :=
  .counting fun ⟨h1, h2, h3, h4, _, h6, h7, h8⟩ => ⟨h1, h2, h3, h4, satSucc_le, h6, h7, h8⟩

theorem Line.candidateStep_keeps (l : Line) (value : Byte) (good : Bool) : LineKeeps pace l (l.candidateStep value good) := by
  unfold Line.candidateStep
  split
  · split <;> exact .same
  · dsimp only
    split
    · exact .same
    · split
      · exact .same
      · split
        · split
          · exact (Line.countStrayFrame_keeps l).trans .same
          · exact .same
        · exact .same

theorem Line.echoStep_keeps (l : Line) (value : Byte) (good : Bool) : LineKeeps pace l (l.echoStep value good) := by
  unfold Line.echoStep
  split
  · exact .same
  · split
    · exact .same
    · exact l.echoMismatch_keeps

theorem State.awaitCharacter_moves (s : State) (n : LineId) (value : Byte) (good : Bool) :
    Moves pace s (s.awaitCharacter n value good) := by
  unfold State.awaitCharacter
  split
  · exact Moves.line n
  · dsimp only
    split
    · exact (Moves.line n (Line.countNoise_keeps _)).trans (State.failAttempt_moves _ n _)
    all_goals exact Moves.line n (Line.countNoise_keeps _)

theorem State.receiveCharacter_moves (s : State) (n : LineId) (value : Byte) (good : Bool) :
    Moves pace s (s.receiveCharacter n value good) := by
  unfold State.receiveCharacter
  dsimp only
  split
  · exact s.failAttempt_moves n _
  · split
    · exact (Moves.line n).trans (State.judgeFrame_moves _ n)
    · exact Moves.line n

theorem State.takeCharacter_moves (s : State) (n : LineId) (value : Byte) (good : Bool) :
    Moves pace s (s.takeCharacter n value good) := by
  unfold State.takeCharacter
  split
  iterate 3 exact .refl s
  · exact Moves.line n ((Line.countStray_keeps _).trans (Line.candidateStep_keeps _ _ _))
  iterate 4 exact Moves.line n (Line.countStray_keeps _)
  · exact Moves.line n (Line.echoStep_keeps _ _ _)
  · exact s.awaitCharacter_moves n value good
  · exact s.receiveCharacter_moves n value good

/-! ## The samples of a character -/

/-- Sample k is bit k of the byte (R3). -/
theorem receivedByte_getElem (bits : Vector Bool 8) (k : Fin 8) : (receivedByte bits).getLsbD k = bits[k] := by
  obtain ⟨⟨l⟩, h⟩ := bits
  match l, h with
  | [a, b, c, d, e, f, g, i], _ => revert a b c d e f g i k; decide +kernel

/-- The samples name the byte (R3). -/
theorem receivedByte_eq {bits : Vector Bool 8} {b : Byte} (h : ∀ k : Fin 8, b.getLsbD k = bits[k]) : receivedByte bits = b := by
  apply BitVec.eq_of_getLsbD_eq
  intro i hi
  exact (receivedByte_getElem bits ⟨i, hi⟩).trans (h ⟨i, hi⟩).symm

/-- The parity error by the ones among data bits and parity bit (R1, R3). -/
theorem parityFails_eq (p : Parity) (value : Byte) (sampled : Bool) :
    parityFails p value sampled =
      match p with
      | .none => false
      | .even => decide (((List.finRange 8).countP (fun k : Fin 8 => value.getLsbD k) + bitOf sampled) % 2 = 1)
      | .odd => decide (((List.finRange 8).countP (fun k : Fin 8 => value.getLsbD k) + bitOf sampled) % 2 = 0) := by
  cases p <;> cases sampled <;> revert value <;> decide +kernel

theorem State.handCharacter_moves (s : State) (n : LineId) (bits : Vector Bool 8) (parityBit stopBit : Bool) :
    Moves pace s (s.handCharacter n bits parityBit stopBit) := by
  unfold State.handCharacter
  dsimp only
  split
  · exact (Moves.line n).trans (State.takeCharacter_moves _ n _ _)
  · exact .refl s

theorem State.breakReport_moves (s : State) (n : LineId) : Moves pace s (s.breakReport n) := by
  unfold State.breakReport
  split
  · dsimp only
    have h (t : State) : Moves pace t ((t.modLine n fun l =>
        { l with
          rxPhase := .breakHeld, breakFlag := true
          counters := { l.counters with breaks := satSucc Config.counterMax l.counters.breaks } }).lineEvent n .break) :=
      (Moves.line n (.counting fun ⟨h1, h2, _, h4, h5, h6, h7, h8⟩ => ⟨h1, h2, satSucc_le, h4, h5, h6, h7, h8⟩)).trans
        (State.lineEvent_moves _ n _)
    split
    · exact (h s).trans (State.failAttempt_moves _ n _)
    · exact (h s).trans (Moves.line n)
    · exact h s
  · exact .refl s

theorem State.gapExpiry_moves (s : State) (n : LineId) : Moves pace s (s.gapExpiry n) := by
  unfold State.gapExpiry
  dsimp only
  split
  · split
    · exact s.failAttempt_moves n _
    · exact Moves.line n
  · exact .refl s

theorem State.quietExpiry_moves (s : State) (n : LineId) : Moves pace s (s.quietExpiry n) := by
  unfold State.quietExpiry
  split
  · exact s.toLead_moves n
  · exact .refl s

theorem State.jamExpiry_moves (s : State) (n : LineId) : Moves pace s (s.jamExpiry n) := by
  unfold State.jamExpiry
  split
  · exact ((Moves.line n (.counting fun ⟨h1, _, h3, h4, h5, h6, _, h8⟩ =>
      ⟨h1, satSucc_le, h3, h4, h5, h6, satSucc_le, h8⟩)).trans (State.lineEvent_moves _ n _)).trans (State.failAttempt_moves _ n _)
  · exact .refl s

theorem State.leadExpiry_moves (s : State) (n : LineId) : Moves pace s (s.leadExpiry n) := by
  unfold State.leadExpiry
  split
  · exact Moves.line n (Line.enterSend_keeps _)
  · exact .refl s

theorem State.sentEvent_moves (s : State) (n : LineId) : Moves pace s (s.sentEvent n) := by
  unfold State.sentEvent
  split
  · exact s.characterEnd_moves n
  · exact .refl s

theorem State.trailExpiry_moves (s : State) (n : LineId) : Moves pace s (s.trailExpiry n) := by
  unfold State.trailExpiry
  split
  · exact s.trailEnd_moves n
  · exact .refl s

theorem State.responseExpiry_moves (s : State) (n : LineId) : Moves pace s (s.responseExpiry n) := by
  unfold State.responseExpiry
  dsimp only
  split
  · split
    · exact Moves.line n
    · exact s.failAttempt_moves n _
  · exact Moves.line n
  · exact .refl s

theorem State.backoffExpiry_moves (s : State) (n : LineId) : Moves pace s (s.backoffExpiry n) := by
  unfold State.backoffExpiry
  split
  · exact Moves.line n
  · exact .refl s

theorem Line.rxLevel_keeps (l : Line) (high : Bool) : LineKeeps pace l (l.rxLevel high) := by
  unfold Line.rxLevel
  split
  · exact .same
  · split <;> exact .same

theorem State.falseStartEvent_moves (s : State) (n : LineId) : Moves pace s (s.falseStartEvent n) := by
  unfold State.falseStartEvent
  dsimp only
  split
  · split
    · exact (Moves.line n).trans (State.failAttempt_moves _ n _)
    · exact Moves.line n
  · exact .refl s

end Sys2Proof.Machine
end

