-- ==== Sys2Proof/Laws/Commands.lean ====
section
/-! SUPPORT. The device, the admin commands, the bursts and the register writes as moves (Device, Admin, Bus, HostPort), and the law of
every command: a run of moves, or a reset followed by one. -/

namespace Sys2Proof.Machine

-- One theorem at a time: the proofs of this file side by side need more memory than a check may have.
set_option Elab.async false

variable {pace : Pace}

/-! ## The device -/

/-- Only an eligible ring is asked for (R143). -/
theorem State.ringToFetch_eligible {s : State} {r : RingId} (h : s.ringToFetch = some r) : s.ringEligible r = true := by
  have next : s.nextRing = some r → s.ringEligible r = true := fun e => List.find?_some e
  unfold State.ringToFetch at h
  split at h
  · split at h
    · cases h
      assumption
    · exact next h
  · exact next h

theorem State.askFetch_moves (s : State) : Moves pace s s.askFetch := Moves.ringUnit _

theorem orderEvents_moves (es : List (LineId × Resumption)) (s : State) : Moves pace s (orderEvents es s).2 := by
  induction es generalizing s with
  | nil => exact .refl s
  | cons e es ih => exact (ih s).trans Moves.free

/-- The order of the events of a return is one of their orders, and only the free counter is read for it (R118, log entry 13). -/
theorem orderEvents_spec (es : List (LineId × Resumption)) (s : State) :
    (orderEvents es s).1.Perm es ∧ ∃ k, (orderEvents es s).2 = { s with free := k } := by
  induction es generalizing s with
  | nil => exact ⟨.refl _, s.free, rfl⟩
  | cons e es ih =>
    obtain ⟨a, k, b⟩ := ih s
    refine ⟨?_, k + 1, ?_⟩
    · exact (List.perm_insertIdx _ _ (Nat.le_of_lt_succ (Nat.mod_lt _ (Nat.succ_pos _)))).trans (a.cons e)
    · show (orderEvents es s).2.nextFree = _
      rw [b]
      rfl

theorem State.resume_moves (s : State) (e : LineId × Resumption) : Moves .working s (s.resume e) := by
  unfold State.resume
  split
  · exact s.nextCycle_moves _
  · exact s.arbiterChoice_moves _

theorem State.returnToRunning_moves {s : State} (h : s.hbi.device ≠ .faulted) : Moves .working s s.returnToRunning :=
  (((Moves.device (fun k => { k with device := .running }) h).trans (orderEvents_moves _ _)).trans
    (Moves.foldl State.resume_moves _ _)).trans (State.askFetch_moves _)

theorem State.haltTest_moves (s : State) : Moves .working s s.haltTest := by
  unfold State.haltTest
  split
  · next h =>
    have nf : s.hbi.device ≠ .faulted := by rw [h.1]; decide
    split
    · exact State.returnToRunning_moves nf
    · exact (Moves.device (fun k => { k with device := .halted }) nf).trans (State.latch_moves _ _)
  · exact .refl s

theorem State.eventEnd_moves (s : State) : Moves .working s s.eventEnd := (s.haltTest_moves).trans (State.askFetch_moves _)

theorem State.voidFetch_moves (s : State) (test : RingId → Bool) : Moves pace s (s.voidFetch test) := by
  unfold State.voidFetch
  split
  · split
    · split
      · exact Moves.ringUnit _
      · exact .refl s
    · exact .refl s
  · exact .refl s

theorem State.forLines_moves {f : LineId → State → State} (h : ∀ n t, Moves pace t (f n t)) (s : State) : Moves pace s (s.forLines f) :=
  Moves.foldl (fun t n => h n t) _ _

theorem State.haltLine_moves (n : LineId) (s : State) : Moves .working s (State.haltLine n s) :=
  ((Moves.line n (.timing (by simp))).trans (State.clearMarks_moves n _)).trans (State.dropFollowUps_moves _ n _)

theorem State.enterHalting_moves {s : State} (h : s.hbi.device ≠ .faulted) : Moves .working s s.enterHalting :=
  (((((Moves.device (fun k => { k with device := .halting }) h).trans (State.voidFetch_moves _ _)).trans (Moves.ringUnit _)).trans
    (State.forLines_moves State.haltLine_moves _)).trans (State.deferredApply_moves _)).trans (State.haltTest_moves _)

theorem State.faultAdmin_moves (s : State) : Moves pace s s.faultAdmin := by
  unfold State.faultAdmin
  split
  iterate 2 exact .refl s
  · exact Moves.admin _
  · split
    · exact .refl s
    · exact Moves.admin _

theorem State.enterFaulted_moves (s : State) (cause : FaultCause) : Moves .any s (s.enterFaulted cause) := by
  unfold State.enterFaulted
  split
  · exact .refl s
  · next h =>
    exact (((((((((Moves.anyHbi _ h).trans (State.latch_moves _ _)).trans (Moves.ringUnit _)).trans (Moves.anyWriter _)).trans
      (Moves.capture _)).trans (State.forLines_moves State.clearMarks_moves _)).trans
      (Moves.loose (State.forLines_moves State.faultWork_moves _))).trans
      (State.forLines_moves State.faultLine_moves _)).trans (State.faultAdmin_moves _)).trans (State.deferredApply_moves _)

/-! ## Grants and moderation -/

theorem State.takeMalformed_moves {s : State} (room : s.hasRoom = true) (h : s.hbi.device ≠ .faulted) (n : LineId)
    (c : Completion) : Moves pace s (s.takeMalformed n c) :=
  (((State.grantTo_moves room h _ c).trans (Moves.ringUnit _)).trans
    (Moves.rings (s := (s.grantTo ringClaimant c).modRingUnit _) _ h)).trans (State.markShadow_moves _)

theorem State.grantLine_moves {s : State} (room : s.hasRoom = true) (h : s.hbi.device ≠ .faulted) (n : LineId) (c : Completion) :
    Moves pace s (s.grantLine n c) := (State.grantTo_moves room h _ c).trans (State.enterIdle_moves _ n)

theorem State.grantClaimant_moves {s t : State} (room : s.hasRoom = true) (h : s.hbi.device ≠ .faulted) {k : Fin 7}
    (e : s.grantClaimant k = some t) : Moves pace s t := by
  unfold State.grantClaimant at e
  split at e
  iterate 4
    obtain ⟨c, -, rfl⟩ := Option.map_eq_some_iff.mp e
    exact State.grantLine_moves room h _ c
  · split at e
    · cases e
      exact (State.grantTo_moves room h _ _).trans (Moves.admin _)
    all_goals cases e
  · obtain ⟨q, -, rfl⟩ := Option.map_eq_some_iff.mp e
    exact State.takeMalformed_moves room h _ _
  · obtain ⟨k, -, rfl⟩ := Option.map_eq_some_iff.mp e
    exact State.postNotice_moves room h k

theorem State.grantOne_moves (s : State) : Moves pace s s.grantOne := by
  unfold State.grantOne
  split
  · next h =>
    simp only [Bool.and_eq_true, bne_iff_ne] at h
    cases e : (claimOrder s.writer.pointer).findSome? s.grantClaimant with
    | none => exact .refl s
    | some t =>
      obtain ⟨k, -, ek⟩ := List.exists_of_findSome?_eq_some e
      exact State.grantClaimant_moves h.1 h.2 ek
  · exact .refl s

/-- A freed entry is granted at once, but where a cycle start with an OVERRUN to report comes at the same moment (R98, R151, R152). -/
theorem State.grantFreed_cases (s : State) :
    s.grantFreed = s.grantOne ∨
      (s.overrunComes = true ∧ (s.grantFreed = s.nextFree.grantOne ∨ s.grantFreed = s.nextFree)) := by
  unfold State.grantFreed
  split
  · next h =>
    rw [Bool.and_eq_true] at h
    split
    · exact .inr ⟨h.2, .inl rfl⟩
    · exact .inr ⟨h.2, .inr rfl⟩
  · exact .inl rfl

theorem State.grantFreed_moves (s : State) : Moves pace s s.grantFreed := by
  unfold State.grantFreed
  split
  · split
    · exact Moves.free.trans (State.grantOne_moves _)
    · exact Moves.free
  · exact State.grantOne_moves s

theorem State.countWritten_moves (s : State) : Moves .any s s.countWritten := by
  have h : Moves .any s (s.modWriter fun w =>
      { w with
        moderationCount := satSucc 255 w.moderationCount
        holdoffTimer := if w.holdoffTimer.isNone && decide (0 < w.holdoff.toNat) then some w.holdoff.toNat
          else w.holdoffTimer }) :=
    Moves.anyWriter _ rfl fun _ => satSucc_le
  unfold State.countWritten
  extract_lets t
  split
  · exact h.trans (State.latch_moves _ _)
  · exact h

/-! ## The admin commands -/

theorem State.withArguments_moves {s : State} {tag : Half} {code : Byte} {fault : Option Nat} {rest : State → State}
    (h : fault = none → Moves pace s (rest s)) : Moves pace s (s.withArguments tag code fault rest) := by
  unfold State.withArguments
  split
  · exact s.adminClaim_moves _
  · exact h rfl

theorem State.adminDone_moves (s : State) (tag : Half) (code : Byte) : Moves pace s (s.adminDone tag code) := s.adminClaim_moves _

/-- The arguments that a list of checks lets pass fail none of them (R156 step 2). -/
theorem firstTrue_none {bs : List Bool} {k : Nat} (h : firstTrue bs k = none) : ∀ b ∈ bs, b = false := by
  induction bs generalizing k with
  | nil => exact fun b hb => absurd hb List.not_mem_nil
  | cons b bs ih =>
    unfold firstTrue at h
    split at h
    · cases h
    · next hb =>
      intro c hc
      cases List.mem_cons.mp hc with
      | inl e => exact e ▸ (Bool.not_eq_true _).mp hb
      | inr m => exact ih h c m

theorem argumentFault_none {reserved : Bool} {checks : List Bool} (h : argumentFault reserved checks = none) :
    reserved = false ∧ ∀ b ∈ checks, b = false := by
  unfold argumentFault at h
  split at h
  · cases h
  · next hr => exact ⟨(Bool.not_eq_true _).mp hr, firstTrue_none h⟩

theorem outside_false {lo hi n : Nat} (h : outside lo hi n = false) : lo ≤ n ∧ n ≤ hi := by
  unfold outside at h
  simp only [Bool.or_eq_false_iff, decide_eq_false_iff_not, not_lt] at h
  exact h

theorem State.runConfigureLine_moves (s : State) (tag : Half) (body : AdminBody) : Moves .working s (s.runConfigureLine tag body) := by
  unfold State.runConfigureLine
  refine State.withArguments_moves fun _ => ?_
  dsimp only
  split
  · exact (Moves.line _ (.timing (by simp))).trans (State.adminClaim_moves _ _)
  · exact s.adminClaim_moves _

theorem Line.start_keeps (l : Line) : LineKeeps .working l l.start :=
  ⟨id, fun _ => ⟨Nat.zero_le _, Nat.zero_le _, Nat.zero_le _, Nat.zero_le _, Nat.zero_le _, Nat.zero_le _, Nat.zero_le _,
    Nat.zero_le _⟩, rfl, fun e => by cases e⟩

theorem State.runStartLine_moves (s : State) (tag : Half) (body : AdminBody) : Moves .working s (s.runStartLine tag body) := by
  unfold State.runStartLine
  refine State.withArguments_moves fun _ => ?_
  dsimp only
  split
  · exact ((Moves.line _ (Line.start_keeps _)).trans (State.runCycle_moves _ _)).trans (State.adminDone_moves _ _ _)
  · exact s.adminClaim_moves _

theorem State.setStopping_moves (s : State) (n : LineId) (mode : StopMode) : Moves .working s (s.setStopping n mode) :=
  ((((Moves.line n (.timing (by simp))).trans (State.dropFollowUps_moves _ n _)).trans (State.clearMarks_moves n _)).trans (Moves.ringUnit _)).trans
    (State.voidFetch_moves _ _)

theorem State.stopTaken_moves (s : State) (n : LineId) (mode : StopMode) : Moves .working s (s.stopTaken n mode) := by
  cases mode with
  | drain => exact (s.setStopping_moves n _).trans (State.abortPrefetched_moves _ n)
  | cut => exact ((s.setStopping_moves n _).trans (State.cutLine_moves _ n)).trans (State.abortPrefetched_moves _ n)

theorem State.runStopLine_moves (s : State) (tag : Half) (body : AdminBody) : Moves .working s (s.runStopLine tag body) := by
  unfold State.runStopLine
  refine State.withArguments_moves fun _ => ?_
  dsimp only
  split
  · exact s.adminClaim_moves _
  · exact (Moves.admin _).trans (State.stopTaken_moves _ _ _)

theorem State.runDefineStation_moves (s : State) (tag : Half) (body : AdminBody) : Moves pace s (s.runDefineStation tag body) := by
  unfold State.runDefineStation
  refine State.withArguments_moves fun h => ?_
  have range := outside_false ((argumentFault_none h).2 (outside 1 15 (argNat body 8)) (by simp [defineStationChecks, stationSettingChecks]))
  dsimp only
  split
  · exact s.adminClaim_moves _
  · split
    · exact s.adminClaim_moves _
    · split
      · exact s.adminClaim_moves _
      · exact (Moves.station _ (Station.define_keeps _ range _ _ _ _ _ _)).trans (State.adminClaim_moves _ _)

theorem State.runModifyStation_moves (s : State) (tag : Half) (body : AdminBody) :
    Moves pace s (s.runModifyStation tag body) := by
  unfold State.runModifyStation
  refine State.withArguments_moves fun h => ?_
  have range := outside_false ((argumentFault_none h).2 (outside 1 15 (argNat body 6)) (by simp [modifyStationChecks, stationSettingChecks]))
  dsimp only
  split
  · exact s.adminClaim_moves _
  · have m := Moves.station (p := pace) (s := s) (slotOf (argNat body 3))
      (f := fun st => st.modify (argNat body 4) (argNat body 5) (argNat body 6) (argNat body 7) (argNat body 8 != 0)) (Station.modify_keeps (s.station (slotOf (argNat body 3))) range
      (argNat body 4) (argNat body 5) (argNat body 7) (argNat body 8 != 0))
    split
    · split
      · exact ((m.trans Moves.free).trans (State.postNotices_moves _)).trans (State.adminClaim_moves _ _)
      · exact ((m.trans Moves.free).trans (State.adminClaim_moves _ _)).trans (State.postNotices_moves _)
    · exact m.trans (State.adminClaim_moves _ _)

theorem State.runHoldStation_moves (s : State) (tag : Half) (body : AdminBody) : Moves pace s (s.runHoldStation tag body) := by
  unfold State.runHoldStation
  refine State.withArguments_moves fun _ => ?_
  dsimp only
  split
  iterate 2 exact s.adminClaim_moves _
  all_goals
    split
    · exact (Moves.station _).trans (Moves.admin _)
    · exact (s.applyHold_moves _).trans (State.adminClaim_moves _ _)

theorem State.runReleaseStation_moves (s : State) (tag : Half) (body : AdminBody) : Moves pace s (s.runReleaseStation tag body) := by
  unfold State.runReleaseStation
  refine State.withArguments_moves fun _ => ?_
  dsimp only
  split
  · next h => exact (Moves.station _ (Station.release_keeps _ h)).trans (State.adminClaim_moves _ _)
  · exact s.adminClaim_moves _

theorem State.runRemoveStation_moves (s : State) (tag : Half) (body : AdminBody) : Moves pace s (s.runRemoveStation tag body) := by
  unfold State.runRemoveStation
  refine State.withArguments_moves fun _ => ?_
  dsimp only
  split
  · exact s.adminClaim_moves _
  · split
    · exact s.adminClaim_moves _
    · split
      · exact (Moves.station _).trans (Moves.admin _)
      · exact (s.applyRemove_moves _).trans (State.adminClaim_moves _ _)

theorem State.runReadStation_moves (s : State) (tag : Half) (body : AdminBody) : Moves pace s (s.runReadStation tag body) := by
  unfold State.runReadStation
  exact State.withArguments_moves fun _ => Moves.admin _

theorem State.runDefinePoll_moves (s : State) (tag : Half) (body : AdminBody) : Moves pace s (s.runDefinePoll tag body) := by
  unfold State.runDefinePoll
  refine State.withArguments_moves fun _ => ?_
  split
  · exact s.adminClaim_moves _
  · split
    · exact s.adminClaim_moves _
    · next free =>
      split
      · exact s.adminClaim_moves _
      · refine (Move.admin s _ fun _ x e => .inl ?_).run
        cases e
        exact Decidable.of_not_not free

theorem State.runDeletePoll_moves (s : State) (tag : Half) (body : AdminBody) : Moves pace s (s.runDeletePoll tag body) := by
  unfold State.runDeletePoll
  refine State.withArguments_moves fun _ => ?_
  dsimp only
  split
  · exact s.adminClaim_moves _
  iterate 2 exact (s.freePoll_moves _).trans (State.adminClaim_moves _ _)
  all_goals
    next h => exact (Moves.poll _ (.inUse (by rw [h]; simp) (by simp))).trans (Moves.admin _)

theorem State.runReadLine_moves (s : State) (tag : Half) (body : AdminBody) : Moves pace s (s.runReadLine tag body) := by
  unfold State.runReadLine
  exact State.withArguments_moves fun _ => Moves.admin _

theorem State.runSetCapture_moves (s : State) (tag : Half) (body : AdminBody) : Moves pace s (s.runSetCapture tag body) := by
  unfold State.runSetCapture
  exact State.withArguments_moves fun _ => ((Moves.capture _).trans (Moves.admin _)).trans (State.deferredApply_moves _)

theorem State.runRestartRing_moves {s : State} (nf : s.hbi.device ≠ .faulted) (tag : Half) (body : AdminBody) :
    Moves pace s (s.runRestartRing tag body) := by
  unfold State.runRestartRing
  refine State.withArguments_moves fun _ => ?_
  dsimp only
  split
  · exact ((Moves.rings _ nf).trans (State.markShadow_moves _)).trans (State.adminClaim_moves _ _)
  · exact s.adminClaim_moves _

theorem State.runAdmin_moves {s : State} (nf : s.hbi.device ≠ .faulted) (tag : Half) (code : Byte) (body : AdminBody) :
    Moves .working s (s.runAdmin tag code body) := by
  unfold State.runAdmin
  split
  · exact s.runConfigureLine_moves tag body
  · exact s.runStartLine_moves tag body
  · exact s.runStopLine_moves tag body
  · exact s.runDefineStation_moves tag body
  · exact s.runModifyStation_moves tag body
  · exact s.runRemoveStation_moves tag body
  · exact s.runHoldStation_moves tag body
  · exact s.runReleaseStation_moves tag body
  · exact s.runReadStation_moves tag body
  · exact s.runDefinePoll_moves tag body
  · exact s.runDeletePoll_moves tag body
  · exact s.runReadLine_moves tag body
  · exact s.runSetCapture_moves tag body
  · exact State.runRestartRing_moves nf tag body
  · exact s.adminClaim_moves _

theorem State.adminTake_moves {s : State} {run : State → State} (nf : s.hbi.device ≠ .faulted)
    (h : ∀ t : State, t.hbi.device ≠ .faulted → Moves pace t (run t)) : Moves pace s (s.adminTake run) :=
  ((Moves.rings _ nf).trans (State.markShadow_moves _)).trans (h _ nf)

theorem State.adminMayTake_running {s : State} (h : s.adminMayTake = true) : s.hbi.device ≠ .faulted := by
  unfold State.adminMayTake at h
  simp only [Bool.and_eq_true, beq_iff_eq] at h
  rw [h.1.1]
  decide

theorem State.burstEnd_moves {s : State} {r : Requester} {act : State → State} (h : ∀ t : State, Moves pace t (act t)) :
    Moves pace s (s.burstEnd r act) := by
  unfold State.burstEnd
  split
  · split
    · exact Moves.hbi _
    · exact (Moves.hbi _).trans (h _)
  · exact .refl s

theorem State.adminRow_moves {s : State} {run : State → State} (h : ∀ t : State, t.hbi.device ≠ .faulted → Moves pace t (run t)) :
    Moves pace s (s.adminRow run) := by
  refine State.burstEnd_moves fun t => ?_
  split
  · exact .refl t
  · refine Relation.ReflTransGen.trans ?_ (State.askFetch_moves _)
    split
    · next e => exact State.adminTake_moves (State.adminMayTake_running e) h
    · exact Moves.refl t

/-- The claim of a completion gives the processor its progress, whatever it was. -/
theorem State.adminClaim_setAdmin (s : State) (a : Admin) (c : Completion) : (s.setAdmin a).adminClaim c = s.adminClaim c := by
  unfold State.adminClaim State.tryClaim
  by_cases h : s.hbi.device = .faulted
  · rw [if_pos h, if_pos (by exact h)]
    rfl
  · rw [if_neg h, if_neg (by exact h)]
    by_cases r : (s.hasRoom && s.hbi.device != .faulted) = true
    · rw [if_pos r, if_pos (by exact r)]
      rfl
    · rw [if_neg r, if_neg (by exact r)]
      rfl

theorem AdminWrite.complete_moves {s : State} {tag : Half} {w : AdminWrite} (h : s.admin = .writing tag w) (c : Completion) :
    Moves pace s ((w.complete s).adminClaim c) := by
  cases w with
  | readStation k address shown => exact s.adminClaim_moves c
  | readLine n address shown =>
    cases shown with
    | some x => exact (Moves.line n).trans (State.adminClaim_moves _ c)
    | none => exact s.adminClaim_moves c
  | definePoll a =>
    have e : (AdminWrite.definePoll a).complete s = s.fillPoll a := rfl
    rw [e, ← State.adminClaim_setAdmin _ .idle]
    exact (Move.fillPoll s tag a h).run.trans (State.adminClaim_moves _ c)

theorem State.adminWritten_moves (s : State) (error : Bool) : Moves pace s (s.adminWritten error) := by
  unfold State.adminWritten
  split
  · exact Moves.admin _
  · split
    · next h =>
      split
      · exact s.adminClaim_moves _
      · exact AdminWrite.complete_moves h _
    all_goals exact .refl s

/-! ## The bursts -/

theorem RingUnit.shadowGrant_frame (u : RingUnit) : u.shadowGrant.rings = u.rings ∧ u.shadowGrant.faultCount = u.faultCount := by
  unfold RingUnit.shadowGrant
  split <;> exact ⟨rfl, rfl⟩

theorem State.stampGrant_moves (s : State) (n : LineId) : Moves pace s (s.stampGrant n) := by
  unfold State.stampGrant
  split
  · exact Moves.line n
  all_goals exact .refl s

theorem State.atGrant_moves (s : State) (r : Requester) : Moves pace s (s.atGrant r) := by
  unfold State.atGrant
  split
  iterate 3 exact .refl s
  · exact Moves.ringUnit _
  · exact Moves.ringUnit _ (RingUnit.shadowGrant_frame _).1 (RingUnit.shadowGrant_frame _).2
  · exact s.stampGrant_moves _
  · split
    · next w h =>
      refine (Move.admin s _ fun tag x e => .inr ?_).run
      rw [h]
      cases w with
      | definePoll a => exact e
      | _ => cases e
    all_goals exact .refl s

theorem State.grantBus_moves (s : State) : Moves pace s s.grantBus := by
  unfold State.grantBus
  split
  · split
    · exact (s.atGrant_moves _).trans (Moves.hbi _)
    · exact .refl s
  · exact .refl s

theorem State.contextLoaded_moves (s : State) (error : Bool) (data : Vector Byte 64) : Moves .any s (s.contextLoaded error data) := by
  unfold State.contextLoaded
  split
  · next h =>
    have nf : s.hbi.device ≠ .faulted := by rw [h]; decide
    split
    · exact s.enterFaulted_moves _
    · split
      · have load (f : RingUnit → RingUnit) (g : CompletionWriter → CompletionWriter) (hg : (g s.writer).holding = [])
            (hc : (g s.writer).moderationCount = s.writer.moderationCount) : Moves .any s ((s.modRingUnit f).modWriter g) :=
          (Moves.rings f nf).trans (Moves.workingWriter (s := s.modRingUnit f) g nf
            (by rw [State.modRingUnit_writer, hg]; exact Nat.zero_le _) fun e => by rw [State.modRingUnit_writer, hc]; exact e)
        unfold State.loadContext
        dsimp only
        split
        · exact (load _ _ rfl rfl).trans (Moves.anyHbi (s := (s.modRingUnit _).modWriter _) _ nf)
        · exact ((load _ _ rfl rfl).trans (Moves.anyHbi (s := (s.modRingUnit _).modWriter _) _ nf)).trans (State.latch_moves _ _)
      · exact s.enterFaulted_moves _
  · exact .refl s

/-- A request that joins a prefetch queue with room keeps its bound (R109). -/
theorem LineKeeps.joinPrefetch {l : Line} (r : Request) (room : l.prefetched.length < Config.prefetchDepth) :
    LineKeeps pace l { l with prefetched := l.prefetched ++ [r] } := by
  refine ⟨fun ⟨_, h2, h3⟩ => ⟨?_, h2, h3⟩, id, rfl, fun _ => ⟨rfl, rfl, rfl⟩⟩
  simp only [List.length_append, List.length_cons, List.length_nil]
  omega

theorem State.takeRequest_moves {s : State} (nf : s.hbi.device ≠ .faulted) (n : LineId)
    (room : (s.line n).prefetched.length < Config.prefetchDepth) (data : Vector Byte 32) : Moves pace s (s.takeRequest n data) := by
  unfold State.takeRequest
  split
  · exact (((Moves.line n (.joinPrefetch _ room)).trans
      (Moves.rings (s := s.modLine n fun l => { l with prefetched := l.prefetched ++ [decodeRequest data] }) _ nf)).trans
      (State.markShadow_moves _)).trans (State.arbiterChoice_moves _ n)
  · unfold State.claimMalformed
    split
    · next h =>
      simp only [Bool.and_eq_true, bne_iff_ne] at h
      exact State.takeMalformed_moves h.1 h.2 _ _
    · exact Moves.ringUnit _

theorem State.fetched_moves (s : State) (r : RingId) (error : Bool) (data : Vector Byte 32) : Moves .working s (s.fetched r error data) := by
  unfold State.fetched
  split
  · exact .refl s
  · next nf =>
    refine Relation.ReflTransGen.trans ?_ (State.askFetch_moves _)
    split
    · exact State.faultRing_moves nf r _
    · split
      · split
        · exact State.adminTake_moves nf fun t ht => State.runAdmin_moves ht _ _ _
        · exact Moves.refl s
      · dsimp only
        split
        · next h =>
          simp only [State.requestMayTake, Bool.and_eq_true, decide_eq_true_eq] at h
          exact State.takeRequest_moves nf _ h.2 data
        · exact Moves.refl s

theorem State.fetchEnd_moves (s : State) (error : Bool) (data : Vector Byte 32) : Moves .working s (s.fetchEnd error data) := by
  unfold State.fetchEnd
  split
  · split
    · exact State.burstEnd_moves fun t => t.fetched_moves _ error data
    · exact .refl s
  · exact .refl s

/-- The end of a completion burst: the grant inside leaves the device state alone, so the advance is of a working writer. -/
theorem State.completionDone_moves {s : State} (nf : s.hbi.device ≠ .faulted) : Moves .any s s.completionDone := by
  unfold State.completionDone
  have granted : Moves .still (s.modWriter fun w => { w with holding := w.holding.drop 1 })
      (s.modWriter fun w => { w with holding := w.holding.drop 1 }).grantFreed := State.grantFreed_moves _
  have ht := Moves.notFaulted granted (by simp) nf
  exact ((((Moves.workingWriter _ nf (by simp)).trans (Moves.loose granted)).trans
    (Moves.workingWriter CompletionWriter.advance ht (Nat.le_refl _))).trans (State.countWritten_moves _)).trans
    (Moves.loose (State.eventEnd_moves _))

theorem State.shadowWritten_moves (s : State) (error : Bool) : Moves .any s (s.shadowWritten error) := by
  unfold State.shadowWritten
  split
  · exact s.enterFaulted_moves _
  · exact .refl s

theorem State.completionWritten_moves (s : State) (error : Bool) : Moves .any s (s.completionWritten error) := by
  unfold State.completionWritten
  split
  · exact .refl s
  · next nf =>
    split
    · exact s.enterFaulted_moves _
    · exact State.completionDone_moves nf

theorem State.captureAdvance_moves (s : State) (length : Nat) : Moves pace s (s.captureAdvance length) := by
  unfold State.captureAdvance
  split
  · dsimp only
    split
    · exact (Moves.capture _).trans (State.recordWritten_moves _ _ _)
    · exact Moves.capture _
  · exact .refl s

theorem State.captureWritten_moves (s : State) (error : Bool) (length : Nat) : Moves .working s (s.captureWritten error length) := by
  unfold State.captureWritten
  split
  · exact .refl s
  · split
    · exact ((s.captureFault_moves).trans (State.deferredApply_moves _)).trans (State.eventEnd_moves _)
    · exact ((s.captureAdvance_moves length).trans (State.deferredApply_moves _)).trans (State.eventEnd_moves _)

theorem State.payloadPart_moves (s : State) (n : LineId) (error : Bool) (address : Word) (remaining : Nat)
    (bytes part : List Byte) : Moves pace s (s.payloadPart n error address remaining bytes part) := by
  unfold State.payloadPart
  split
  · exact s.cutEnd_moves n
  · split
    · exact s.endExchange_moves n _ _
    · dsimp only
      split
      · split
        · exact s.sendFrame_moves n _
        · exact .refl s
      · exact Moves.line n

theorem State.responsePart_moves (s : State) (n : LineId) (error : Bool) (address : Word) (bytes : List Byte)
    (next : AfterWrite) (length : Nat) : Moves pace s (s.responsePart n error address bytes next length) := by
  unfold State.responsePart
  extract_lets t
  have h : Moves pace s t := by
    by_cases e : error = true
    · simp only [t, e, if_true]
      exact .refl s
    · simp only [t, e]
      exact s.modExchange_moves n _
  split
  · exact h.trans (State.cutEnd_moves _ n)
  · split
    · exact h.trans (State.endExchange_moves _ n _ _)
    · split
      · exact h.trans (State.afterWrite_moves _ n next)
      · exact h.trans (Moves.line n)

theorem State.slotReport_moves (s : State) (n : LineId) (id : PollId) : Moves pace s (s.slotReport n id) := by
  unfold State.slotReport
  split
  · exact s.pollReport_moves n id _
  · exact .refl s

theorem State.slotPart_moves (s : State) (n : LineId) (error : Bool) (write : SlotWrite) (status : Status) (data : List Byte)
    (done : Nat) (stamp : Word) (length : Nat) : Moves pace s (s.slotPart n error write status data done stamp length) := by
  unfold State.slotPart
  dsimp only
  split
  · exact (Moves.poll _).trans (State.slotReport_moves _ n _)
  · split
    · exact Moves.line n
    · split
      · exact Moves.line n
      · exact Moves.line n
    · exact (Moves.poll _).trans (Moves.line n)
    · exact s.slotReport_moves n _

theorem State.moverDone_moves (s : State) (n : LineId) (error : Bool) (data : Vector Byte 64) (length : Nat) :
    Moves .working s (s.moverDone n error data length) := by
  unfold State.moverDone
  split
  · exact s.faultEnd_moves n
  · refine Relation.ReflTransGen.trans ?_ (State.eventEnd_moves _)
    split
    · exact s.payloadPart_moves n _ _ _ _ _
    · exact s.responsePart_moves n _ _ _ _ _
    · exact s.slotPart_moves n _ _ _ _ _ _ _
    · exact Moves.refl s

/-! ## The register writes -/

theorem State.writeEnable_moves (s : State) (v : Bool) : Moves .any s (s.writeEnable v) := by
  unfold State.writeEnable
  split
  · exact .refl s
  · extract_lets t
    have h : Moves .any s t := Moves.hbi _
    have same : t.hbi.device = s.hbi.device := rfl
    split
    · next d =>
      have nf : t.hbi.device ≠ .faulted := by rw [same, d]; decide
      split
      · split
        · exact h.trans (Moves.anyHbi _ nf)
        · exact h.trans (State.enterFaulted_moves _ _)
      · exact h
    · next d =>
      have nf : t.hbi.device ≠ .faulted := by rw [same, d]; decide
      split
      · exact h
      · exact h.trans (Moves.loose (State.enterHalting_moves nf))
    · next d =>
      have nf : t.hbi.device ≠ .faulted := by rw [same, d]; decide
      split
      · exact h.trans (Moves.loose (State.returnToRunning_moves nf))
      · exact h
    all_goals exact h

theorem State.writeIrqEnable_moves (s : State) (v : Bool) : Moves pace s (s.writeIrqEnable v) := Moves.hbi _

theorem State.writeControl_moves (s : State) (enable irq : Bool) : Moves .any s (s.writeControl enable irq) :=
  (s.writeIrqEnable_moves irq).trans (State.writeEnable_moves _ enable)

theorem State.acknowledge_moves (s : State) (value : Word) : Moves .any s (s.acknowledge value) := by
  have clear : Moves .any s (s.modHbi fun h => { h with attention := h.attention &&& ~~~value.setWidth 7 }) :=
    (Move.hbi (p := .any) s _ (fun h => ⟨h, rfl⟩) trivial).run
  unfold State.acknowledge
  dsimp only
  split
  · exact clear.trans (Moves.anyWriter _ rfl fun _ => Nat.zero_le _)
  · exact clear

theorem State.writeMask_moves (s : State) (value : Word) : Moves pace s (s.writeMask value) := Moves.hbi _

theorem State.writeContextAddress_moves (s : State) (value : Word) : Moves pace s (s.writeContextAddress value) := by
  unfold State.writeContextAddress
  split
  · exact Moves.hbi _
  · exact .refl s

theorem State.writeModeration_moves (s : State) (value : Word) : Moves .any s (s.writeModeration value) := Moves.anyWriter _

/-- A working device is not FAULTED. -/
theorem DeviceState.working_notFaulted {d : DeviceState} (h : d.working = true) : d ≠ .faulted := by
  cases d <;> simp_all [DeviceState.working]

theorem State.notifyRing_moves {s : State} (nf : s.hbi.device ≠ .faulted) (r : RingId) (p : Half) :
    Moves pace s (s.notifyRing r p) := by
  unfold State.notifyRing
  split
  · exact .refl s
  · exact .refl s
  · refine Relation.ReflTransGen.trans ?_ (State.askFetch_moves _)
    split
    · exact Moves.rings _ nf
    · exact State.faultRing_moves nf r _

theorem State.writeNotify_moves (s : State) (value : Word) : Moves pace s (s.writeNotify value) := by
  unfold State.writeNotify
  split
  · next w =>
    have nf := DeviceState.working_notFaulted w
    split
    · exact State.notifyRing_moves nf _ _
    · exact State.ringFault_moves nf _ _
  · exact .refl s

theorem State.writeCompletionRelease_moves (s : State) (value : Word) : Moves .any s (s.writeCompletionRelease value) := by
  unfold State.writeCompletionRelease
  dsimp only
  split
  · next w =>
    have nf := DeviceState.working_notFaulted w
    split
    · exact Moves.workingWriter _ nf (Nat.le_refl _)
    · exact State.ringFault_moves nf _ _
  · exact .refl s

theorem State.writeCaptureRelease_moves (s : State) (value : Word) : Moves pace s (s.writeCaptureRelease value) := by
  unfold State.writeCaptureRelease
  split
  · exact .refl s
  · exact s.captureReleaseTo_moves _

theorem State.writeRegister_moves (s : State) (offset : BitVec 6) (value : Word) : Moves .any s (s.writeRegister offset value) := by
  unfold State.writeRegister
  split
  · exact s.writeControl_moves _ _
  · exact s.acknowledge_moves value
  · exact s.writeMask_moves value
  · exact s.writeContextAddress_moves value
  · exact s.writeNotify_moves value
  · exact s.writeCompletionRelease_moves value
  · exact s.writeCaptureRelease_moves value
  · exact s.writeModeration_moves value
  · exact .refl s

theorem State.serve_moves (s : State) (c : Instr) : Moves .any s (s.serve c) := by
  unfold State.serve
  split
  iterate 2 exact s.writeControl_moves _ _
  · exact s.writeIrqEnable_moves _
  · exact s.acknowledge_moves _
  · exact s.writeMask_moves _
  · exact s.writeNotify_moves _
  · exact s.writeCompletionRelease_moves _
  · exact s.writeCaptureRelease_moves _
  · exact s.writeRegister_moves _ _
  · exact .refl s

theorem State.access_moves {s : State} {c : Instr} {act : State → State} (h : Moves .any s (act s)) : Moves .any s (s.access c act) := by
  unfold State.access
  split
  · exact Moves.hbi _
  · exact h

/-! ## Every command -/

/-- A command that is no reset always answers a next state, by a run of moves. -/
theorem exec_moves {c : Instr} (h : isReset c = false) (s : State) : ∃ t, exec c s = .next t ∧ Moves .any s t := by
  cases c with
  | powerOnReset => cases h
  | functionReset e i => cases h
  | resetValues => cases h
  | enableSet i => exact ⟨_, rfl, State.access_moves (s.writeControl_moves _ _)⟩
  | enableClear i => exact ⟨_, rfl, State.access_moves (s.writeControl_moves _ _)⟩
  | irqEnable i => exact ⟨_, rfl, State.access_moves (s.writeIrqEnable_moves _)⟩
  | attentionAcknowledge v => exact ⟨_, rfl, State.access_moves (s.acknowledge_moves _)⟩
  | attentionMask v => exact ⟨_, rfl, State.access_moves (s.writeMask_moves _)⟩
  | notify v => exact ⟨_, rfl, State.access_moves (s.writeNotify_moves _)⟩
  | completionRelease v => exact ⟨_, rfl, State.access_moves (s.writeCompletionRelease_moves _)⟩
  | captureRelease v => exact ⟨_, rfl, State.access_moves (s.writeCaptureRelease_moves _)⟩
  | registerWrite o v =>
    refine ⟨_, rfl, ?_⟩
    rw [if_neg (by rw [show writesReset o v = false from h]; decide)]
    exact State.access_moves (s.writeRegister_moves _ _)
  | busGrant => exact ⟨_, rfl, s.grantBus_moves⟩
  | contextLoadEnd e d => exact ⟨_, rfl, State.burstEnd_moves fun t => t.contextLoaded_moves e d⟩
  | recordFetchEnd e d => exact ⟨_, rfl, Moves.loose (s.fetchEnd_moves e d)⟩
  | shadowWriteEnd e => exact ⟨_, rfl, State.burstEnd_moves fun t => t.shadowWritten_moves e⟩
  | completionWriteEnd e => exact ⟨_, rfl, State.burstEnd_moves fun t => t.completionWritten_moves e⟩
  | claimGrant => exact ⟨_, rfl, s.grantOne_moves.trans (Moves.loose (State.eventEnd_moves _))⟩
  | moderationHoldoffExpiry =>
    refine ⟨_, rfl, ?_⟩
    split
    · exact (Moves.anyWriter _).trans (State.latch_moves _ _)
    · exact .refl s
  | captureWriteEnd e => exact ⟨_, rfl, State.burstEnd_moves fun t => Moves.loose (t.captureWritten_moves e _)⟩
  | dataMoverBurstEnd n e d => exact ⟨_, rfl, State.burstEnd_moves fun t => Moves.loose (t.moverDone_moves n e d _)⟩
  | adminDataWriteEnd e =>
    exact ⟨_, rfl, State.burstEnd_moves fun t => (t.adminWritten_moves e).trans (Moves.loose (State.eventEnd_moves _))⟩
  | configureLine tag body => exact ⟨_, rfl, State.adminRow_moves fun t _ => Moves.loose (t.runConfigureLine_moves tag body)⟩
  | startLine tag body => exact ⟨_, rfl, State.adminRow_moves fun t _ => Moves.loose (t.runStartLine_moves tag body)⟩
  | stopLine tag body => exact ⟨_, rfl, State.adminRow_moves fun t _ => Moves.loose (t.runStopLine_moves tag body)⟩
  | defineStation tag body => exact ⟨_, rfl, State.adminRow_moves fun t _ => t.runDefineStation_moves tag body⟩
  | modifyStation tag body => exact ⟨_, rfl, State.adminRow_moves fun t _ => t.runModifyStation_moves tag body⟩
  | removeStation tag body => exact ⟨_, rfl, State.adminRow_moves fun t _ => t.runRemoveStation_moves tag body⟩
  | holdStation tag body => exact ⟨_, rfl, State.adminRow_moves fun t _ => t.runHoldStation_moves tag body⟩
  | releaseStation tag body => exact ⟨_, rfl, State.adminRow_moves fun t _ => t.runReleaseStation_moves tag body⟩
  | readStation tag body => exact ⟨_, rfl, State.adminRow_moves fun t _ => t.runReadStation_moves tag body⟩
  | definePoll tag body => exact ⟨_, rfl, State.adminRow_moves fun t _ => t.runDefinePoll_moves tag body⟩
  | deletePoll tag body => exact ⟨_, rfl, State.adminRow_moves fun t _ => t.runDeletePoll_moves tag body⟩
  | readLine tag body => exact ⟨_, rfl, State.adminRow_moves fun t _ => t.runReadLine_moves tag body⟩
  | setCapture tag body => exact ⟨_, rfl, State.adminRow_moves fun t _ => t.runSetCapture_moves tag body⟩
  | restartRing tag body => exact ⟨_, rfl, State.adminRow_moves fun t nf => State.runRestartRing_moves nf tag body⟩
  | badCommand tag code body =>
    refine ⟨_, rfl, ?_⟩
    split
    · exact .refl s
    · exact State.adminRow_moves fun t _ => t.adminClaim_moves _
  | deferredCommandApply => exact ⟨_, rfl, s.deferredApply_moves.trans (Moves.loose (State.eventEnd_moves _))⟩
  | haltCondition => exact ⟨_, rfl, Moves.loose s.haltTest_moves⟩
  | stoppingLineOff n =>
    refine ⟨_, rfl, ?_⟩
    split
    · exact (s.enterOff_moves n).trans (Moves.loose (State.eventEnd_moves _))
    · exact .refl s
  | characterReceived n b p q => exact ⟨_, rfl, (s.handCharacter_moves n b p q).trans (Moves.loose (State.eventEnd_moves _))⟩
  | breakDetected n => exact ⟨_, rfl, (s.breakReport_moves n).trans (Moves.loose (State.eventEnd_moves _))⟩
  | interCharacterLimitExpiry n => exact ⟨_, rfl, (s.gapExpiry_moves n).trans (Moves.loose (State.eventEnd_moves _))⟩
  | quietTimerExpiry n => exact ⟨_, rfl, s.quietExpiry_moves n⟩
  | jamLimitExpiry n => exact ⟨_, rfl, (s.jamExpiry_moves n).trans (Moves.loose (State.eventEnd_moves _))⟩
  | leadTimerExpiry n => exact ⟨_, rfl, s.leadExpiry_moves n⟩
  | characterSent n => exact ⟨_, rfl, (s.sentEvent_moves n).trans (Moves.loose (State.eventEnd_moves _))⟩
  | trailTimerExpiry n => exact ⟨_, rfl, (s.trailExpiry_moves n).trans (Moves.loose (State.eventEnd_moves _))⟩
  | responseTimerExpiry n => exact ⟨_, rfl, (s.responseExpiry_moves n).trans (Moves.loose (State.eventEnd_moves _))⟩
  | backoffTimerExpiry n => exact ⟨_, rfl, s.backoffExpiry_moves n⟩
  | cycleStart n =>
    refine ⟨_, rfl, ?_⟩
    split
    · exact (Moves.loose (s.cycleExpiry_moves n)).trans (State.askFetch_moves _)
    · exact .refl s
  | rxnLevelChange n high => exact ⟨_, rfl, Moves.line n (Line.rxLevel_keeps _ _)⟩
  | falseStart n => exact ⟨_, rfl, (s.falseStartEvent_moves n).trans (Moves.loose (State.eventEnd_moves _))⟩

/-- A reset waits for the burst in progress, or gives the reset values, the held writes following as moves (R181). -/
theorem exec_reset {c : Instr} (h : isReset c = true) (s : State) :
    ∃ t, exec c s = .next t ∧ (Moves .any s t ∨ ∃ cause, Moves .any (s.takeReset cause) t) := by
  have start (cause : ResetCause) :
      Moves .any s (s.startReset cause) ∨ ∃ cause', Moves .any (s.takeReset cause') (s.startReset cause) := by
    unfold State.startReset
    split
    · exact .inl (Moves.hbi _)
    · exact .inr ⟨cause, .refl _⟩
  cases c with
  | powerOnReset => exact ⟨_, rfl, start _⟩
  | functionReset e i => exact ⟨_, rfl, start _⟩
  | resetValues =>
    refine ⟨_, rfl, ?_⟩
    unfold State.finishReset
    split
    · exact .inr ⟨_, Moves.foldl State.serve_moves _ _⟩
    · exact .inl (.refl s)
  | registerWrite o v =>
    refine ⟨_, rfl, ?_⟩
    rw [if_pos (show writesReset o v = true from h)]
    exact start _
  | _ => cases h

end Sys2Proof.Machine
end

