-- ==== Sys2Proof/Tests/Slice0.lean ====
section
/-! SUPPORT. Tests of the model against the manual's own examples and tables, the smoke test of WellFormed, and for every statement with
hypotheses a concrete state and operands that meet them, clause by clause at the ends of their ranges. -/

namespace Sys2Proof.Tests

open Sys2Proof Sys2Proof.Machine

-- One theorem at a time: the proofs of this file side by side need more memory than a check may have.
set_option Elab.async false

/-! ### Small states -/

/-- A state in the given device state, right after reset otherwise. -/
def inDevice (d : DeviceState) : State := State.reset.modHbi fun h => { h with device := d, enable := true }

/-- A RUNNING device. -/
def live : State := inDevice .running

/-- The burst in progress. -/
def withBurst (s : State) (owner : Requester) (length : Nat) : State :=
  s.modHbi fun h => { h with burst := some { owner := owner, address := 0, length := length, data := none } }

/-- A RUNNING device whose line 1 is as given, its cycle timer running. -/
def onLine (f : Line → Line) : State :=
  live.modLine 1 fun l => f { l with engine := .idle, rxPhase := .waitEdge, cycleTimer := .running 1000 }

/-- An admin record's bytes from offset 3 on, given by offset. -/
def bodyOf (bytes : List (Nat × Nat)) : AdminBody :=
  Vector.ofFn fun (k : Fin 29) => BitVec.ofNat 8 ((bytes.find? fun p => p.1 == k.val + 3).elim 0 fun p => p.2)

/-- A record's bytes, given by offset. -/
def recordOf (bytes : List (Nat × Nat)) : Vector Byte 32 :=
  Vector.ofFn fun (k : Fin 32) => BitVec.ofNat 8 ((bytes.find? fun p => p.1 == k.val).elim 0 fun p => p.2)

/-- 64 bytes, given by offset. -/
def blockOf (bytes : List (Nat × Nat)) : Vector Byte 64 :=
  Vector.ofFn fun (k : Fin 64) => BitVec.ofNat 8 ((bytes.find? fun p => p.1 == k.val).elim 0 fun p => p.2)

/-- The admin ring's fetch is the burst in progress and the processor is idle. -/
def adminFetch (s : State) : State := withBurst s (.ringFetch 0) 32

/-- A station entry in a state, in a slot of line 1 with address 33, threshold 3. -/
def stationAt (state : StationState) : Station :=
  { Station.define 1 33 20 2 3 5 true with state := state, resync := false }

/-- The data samples of a byte, least-significant bit first. -/
def samplesOf (b : Byte) : Vector Bool 8 := Vector.ofFn fun k => b.getLsbD k

/-- A poll entry of line 1 for station slot 9. -/
def pollAt (state : PollState) : Poll :=
  { Poll.free with
    state := state, line := 1, station := 9, function := 0x21, slotAddress := 0x1000, capacity := 16, divisor := 2, phase := 1
    mode := .always }

/-- A request record for address 33, function 10h. -/
def requestAt : Request :=
  { tag := 7, urgent := false, broadcast := false, bulkRead := false, bulkWrite := false, inlinePayload := true, force := false
    address := 33, function := 0x10, maxSegments := 1, payloadLength := 0, responseCapacity := 64
    payloadArea := List.replicate 16 0, responseAddress := 0x2000 }

/-- The exchange of that request, bound to slot 9. -/
def exchangeAt : Exchange := (requestAt.exchange .request).bind 9 (stationAt .online)

/-- A POLL exchange of entry 4, bound to slot 9. -/
def pollExchange : Exchange := ((pollAt .inFlight).exchange 4).bind 9 (stationAt .online)

/-- The REQUEST frame of that exchange, toggle 0, no payload. -/
def frameAt : Frame := { sync := false, toggle := false, more := false, function := 0x10, payload := [] }

/-- Line 1 holds the exchange and the frame in the given engine state. -/
def holding (engine : Engine) : Line → Line := fun l =>
  { l with engine := engine, exchange := some exchangeAt, frame := some frameAt }

/-- A completion of line 1. -/
def anyCompletion : Completion :=
  { tag := 1, status := .ok, detail := 0, kind := .request, stationState := 2, origin := 1, attempts := 1, segments := 1, delivered := 0,
    residue := 0, stamp := 0 }

/-- A capture region in HOLD mode, 1024 bytes at 0. -/
def captureHold : CaptureConfig := { base := 0, size := 1024, mode := .hold, stopMark := 144, resumeMark := 216 }

/-- The holding queue is full. -/
def full (s : State) : State := s.modWriter fun w => { w with holding := List.replicate 16 anyCompletion }

/-- The next state of a command; a refusal would leave the state. -/
def after (c : Instr) (s : State) : State :=
  match exec c s with
  | .next t => t
  | .fault _ | .refused _ => s

/-! ### WellFormed and the decoder -/

/-- R156 step 1: codes 01h to 0Eh are no unknown codes. -/
theorem test_wellFormed_badCommand :
    (Instr.badCommand 0 0x05#8 (bodyOf [])).wellFormed = false ∧ (Instr.badCommand 0 0x01#8 (bodyOf [])).wellFormed = false ∧
      (Instr.badCommand 0 0x0E#8 (bodyOf [])).wellFormed = false ∧ (Instr.badCommand 0 0x00#8 (bodyOf [])).wellFormed = true ∧
      (Instr.badCommand 0 0x0F#8 (bodyOf [])).wellFormed = true := by decide +kernel

/-- The table gives no row any bits. -/
theorem test_decode_none : decodeTableWord 16 0x1234 = none := rfl

/-! ### The manual's own numbers -/

/-- R10: the nine bytes 31h to 39h leave the register at 29B1h; R105: no byte leaves FFFFh. -/
theorem test_check_reference :
    crc16 [0x31#8, 0x32#8, 0x33#8, 0x34#8, 0x35#8, 0x36#8, 0x37#8, 0x38#8, 0x39#8] = 0x29B1#16 ∧ crc16 [] = 0xFFFF#16 := by
  decide +kernel

/-- R174: IDENT reads part code 5034h and revision 1. -/
theorem test_ident : State.reset.readRegister 0x00#6 = 0x00015034#32 := by decide +kernel

/-- Section 2.14: one character time is 10 bit times at the default settings. -/
theorem test_characterBits : LineConfig.default.characterBits = 10 := by decide

/-- R1: TXn sends C3h with odd parity and 2 stop bits as 0, 1 1 0 0 0 0 1 1, 1, 1 1, and is high after it. -/
theorem test_txLevel :
    let l := ((onLine fun l => { l with txCharacter := some 0xC3, config := { l.config with parity := .odd, stopBits := 2 } }).line 1)
    (List.range 14).map l.txLevel =
      [false, true, true, false, false, false, false, true, true, true, true, true, true, true] ∧ l.txBits.length = 12 := by
  decide +kernel

/-- R26, section 2.14: a REQUEST with a 2-byte payload is 9 characters. -/
theorem test_frame_length : (({ frameAt with payload := [1, 2] } : Frame).characters 33).length = 9 := by decide +kernel

/-- R11: REFUSE is a bad kind after a SYNC; R12: a REFUSE of LENGTH 2 and a LENGTH of 65 are faults. -/
theorem test_early_faults :
    badControl 0x05#8 true = true ∧ badControl 0x05#8 false = false ∧ badControl 0x44#8 false = true ∧
      badLength 0x05#8 2#8 = true ∧ badLength 0x04#8 65#8 = true ∧ badLength 0x04#8 64#8 = false := by decide

/-- R128: records of 1 and of 64 payload bytes take 12 and 72 bytes. -/
theorem test_record_bytes : recordBytes 1 = 12 ∧ recordBytes 64 = 72 := by decide

/-- R145: a valid record, one without BROADCAST to address 0, one INLINE of 17 bytes. -/
theorem test_request_checks :
    malformedCheck (recordOf [(4, 0x10), (5, 33), (6, 0x10), (7, 1)]) = none ∧
      malformedCheck (recordOf [(4, 0x10), (6, 0x10), (7, 1)]) = some 3 ∧
      malformedCheck (recordOf [(4, 0x10), (5, 33), (6, 0x10), (7, 1), (8, 17)]) = some 6 := by decide +kernel

/-! ### One step of a command -/

/-- R175: ENABLE in UNCONFIGURED goes to LOADING, and with an unaligned CONTEXT ADDRESS to FAULTED. -/
theorem test_enable :
    (after (.enableSet true) State.reset).hbi.device = .loading ∧
      (after (.enableSet true) (State.reset.modHbi fun h => { h with contextAddress := 32 })).hbi.faultCause = .contextInvalid := by
  decide +kernel

/-- Section 8.9, steps 1 and 5: across the wrap P = 4 is valid, and P = 6 behind the accepted index faults ring 3. -/
theorem test_notify_wrap :
    let s := live.modRing 3 fun g => { g with state := .active, size := 16, consumer := 65530, accepted := 65534 }
    let u := live.modRing 3 fun g => { g with state := .active, size := 16, consumer := 65535, accepted := 8 }
    ((after (.notify 0x00030004#32) s).ring 3).accepted = 4 ∧ ((after (.notify 0x00030006#32) u).ring 3).state = .faulted := by
  decide +kernel

/-- Section 10.6: threshold 4 and holdoff 50: the first completion starts the timer and latches nothing, the fourth latches. -/
theorem test_moderation :
    let at' := fun k : Nat => withBurst (live.modWriter fun w =>
      { w with size := 16, holding := [anyCompletion], threshold := 4, holdoff := 50, moderationCount := k }) .completionWriter 16
    (after (.completionWriteEnd false) (at' 0)).writer.holdoffTimer = some 50 ∧
      (after (.completionWriteEnd false) (at' 0)).hbi.attention = 0 ∧
      (after (.completionWriteEnd false) (at' 3)).hbi.attention = 1 := by decide +kernel

/-- R30: an SOF handed over after a held expiry begins the frame; another character fails the attempt with TIMEOUT. -/
theorem test_held_expiry :
    let s := onLine fun l => { holding .await l with
      rxPhase := .inCharacter, counted := true, timers := { l.timers with response := .expired } }
    ((after (.characterReceived 1 (samplesOf 0xC3) false true) s).line 1).engine = .receive ∧
      ((after (.characterReceived 1 (samplesOf 0x55) false true) s).line 1).engine = .quiet ∧
      ((after (.characterReceived 1 (samplesOf 0x55) false true) s).line 1).counters.noiseCharacters = 1 := by decide +kernel

/-- R3: the samples 1, 1, 0, 0, 0, 0, 1, 1 are an SOF; with even parity its four ones want a parity bit 0; a low stop bit marks it. -/
theorem test_receiver_samples :
    let bits : Vector Bool 8 := #v[true, true, false, false, false, false, true, true]
    let s := fun (parity : Parity) (high : Bool) => onLine fun l => { holding .await l with
      rxPhase := .inCharacter, rxHigh := high, config := { l.config with parity := parity } }
    let begins := fun (parity : Parity) (high bit : Bool) =>
      ((after (.characterReceived 1 bits bit high) (s parity high)).line 1).engine == .receive
    begins .none true true ∧ begins .even true false ∧ ¬begins .even true true ∧ begins .odd true true ∧ ¬begins .odd true false ∧
      ¬begins .none false false := by decide +kernel

/-- R3: a data sample taken first is bit 0 of the byte: the samples of 01h in a frame of RECEIVE. -/
theorem test_first_sample_is_bit_0 :
    let s := onLine fun l => { holding .receive l with rxPhase := .inCharacter, received := [0xC3] }
    ((after (.characterReceived 1 #v[true, false, false, false, false, false, false, false] false true) s).line 1).received = [0xC3, 1] := by
  decide +kernel

/-- R65, R106: the exchange end leaves SUSPECT; the threshold lowered during the slot delivery, as a MODIFY STATION lowers
it, makes the entry OFFLINE, and the report still shows SUSPECT. -/
theorem test_report_keeps_step_1 :
    let s := ((onLine fun l => { holding .await l with exchange := some pollExchange }).modPoll 4 fun _ => pollAt .inFlight).modStation 9
      fun _ => stationAt .online
    let t := s.endExchange 1 .timeout 0
    let u := t.modStation 9 fun st => st.modify 20 2 1 5 true
    let x := (u.line 1).exchange.getD pollExchange
    (t.station 9).state = .suspect ∧ (u.station 9).state = .offline ∧ (u.line 1).engine = .deliver ∧
      (u.pollCompletion 1 4 x false).stationState = StationState.suspect.code := by decide +kernel

/-- R97: an exchange end and a cycle start that come together, in both orders: the entry in flight with its due-again flag set is overrun
once, and its next poll is the one dispatched. -/
theorem test_lost_poll_in_both_orders :
    let s := ((onLine fun l => { holding .deliver l with exchange := some pollExchange, pollList := [4] }).modPoll 4 fun _ =>
      { pollAt .inFlight with dueAgain := true }).modStation 9 fun _ => stationAt .online
    let ends := fun (t : State) => t.enterIdle 1
    let first := after (.cycleStart 1) (ends { s with pending := [.cycleStart 1] })
    let second := ends (after (.cycleStart 1) s)
    (∀ t ∈ [first, second], (t.poll 4).skipped = 1 ∧ (t.line 1).counters.overruns = 1 ∧ (t.poll 4).state = .inFlight ∧
      (t.poll 4).dueAgain = false ∧ (t.line 1).engine = .quiet) ∧
    -- with no cycle start at that moment the entry is dispatched at once
    ((ends s).poll 4).state = .inFlight ∧ ((ends s).poll 4).skipped = 0 := by decide +kernel

/-- R24: a jam counts a jam and a contention and latches LINE_EVENT; the retry is a fresh QUIET. -/
theorem test_jam :
    let s := onLine fun l => { holding .quiet l with timers := { l.timers with jam := some 2550 } }
    let t := after (.jamLimitExpiry 1) s
    (t.line 1).counters.jams = 1 ∧ (t.line 1).counters.contentions = 1 ∧ t.hbi.attention = 8 ∧ (t.line 1).engine = .quiet ∧
      (t.line 1).timers.jam = some 2550 := by decide +kernel

/-- R49: with the busy limit 3 the third BUSY goes to BACKOFF and the fourth ends the exchange. -/
theorem test_busy_limit :
    let s := onLine (holding .receive)
    ((s.acceptBusy 1 { exchangeAt with busyCount := 2 }).line 1).engine = .backoff ∧
      (((full s).acceptBusy 1 { exchangeAt with busyCount := 3 }).line 1).claim.map (fun c => c.status) = some .busyLimit := by
  decide +kernel

/-- Section 2.15, step 2 to 3: the character in transmission ends and TRAIL follows; at its end the cut exchange ends ABORTED. -/
theorem test_cut_in_send :
    let s := onLine fun l => { holding .send l with cutting := true, sentCount := 11, txCharacter := some 0 }
    ((after (.characterSent 1) s).line 1).engine = .trail ∧
      (after (.trailTimerExpiry 1) (after (.characterSent 1) s)).writer.holding.map (fun c => c.status) = [.aborted] := by
  decide +kernel

/-- R96, R97: an entry still DUE at a cycle start and due again is overrun and DUE; the skipped counter and the line's overruns rise. -/
theorem test_overrun :
    let s := (onLine fun l => { l with engine := .await, pollList := [4] }).modPoll 4 fun _ => pollAt .due
    let t := after (.cycleStart 1) s
    (t.poll 4).state = .due ∧ (t.poll 4).skipped = 1 ∧ (t.line 1).counters.overruns = 1 ∧
      t.writer.holding.map (fun c => (c.status, c.detail, c.stamp)) = [(.overrun, 1, 1)] := by decide +kernel

/-- R71, R70: threshold 3: a third failure in a row takes a SUSPECT station OFFLINE, and a success brings it ONLINE. -/
theorem test_health :
    ({ stationAt .suspect with failures := 2 }.exchangeEnd .timeout true).state = .offline ∧
      ({ stationAt .offline with failures := 3 }.exchangeEnd .ok true).state = .online := by decide

/-- R143, R185: the ring asked for when the requester was free is fetched, though another comes before it in turn since. -/
theorem test_fetch_request :
    let s := ((onLine fun l => l).modRing 0 fun g => { g with state := .active, size := 16 }).modRing 2 fun g =>
      { g with state := .active, size := 16 }
    let t := after .busGrant (after (.notify 0x00000001) (after (.notify 0x00020001) s))
    t.hbi.burst.map (fun b => b.owner) = some (.ringFetch 2) ∧ t.ringUnit.requested = none := by decide +kernel

/-- R151, R152 step 1: the freed entry is granted in the event to the claimant that waits, its line's cycle timer running. -/
theorem test_freed_entry :
    let s := full (onLine fun l => { holding .completeWait l with claim := some anyCompletion })
    let t := after (.completionWriteEnd false) (withBurst (s.modWriter fun w => { w with size := 64 }) .completionWriter 16)
    t.writer.holding.length = 16 ∧ (t.line 1).engine = .idle := by decide +kernel

/-- R114, section 6.4: an URGENT record before a PROBE, a PROBE before the share, a DUE poll before an EVENT_FETCH. -/
theorem test_choice :
    let s := (onLine fun l => { l with
      prefetched := [requestAt], pollList := [4], followUp := [{ kind := .probe, slot := 9 }], share := 4 }).modPoll 4 fun _ => pollAt .due
    s.nextWork 1 = some (.followUp { kind := .probe, slot := 9 }) ∧
      (s.modLine 1 fun l => { l with followUp := [] }).nextWork 1 = some (.request requestAt) ∧
      (s.modLine 1 fun l => { l with followUp := [], share := 3 }).nextWork 1 = some (.poll 4) := by decide +kernel

/-- R39, section 2.15 step 7: the stopping line with no work goes OFF, and the STOP LINE ends DONE. -/
theorem test_stopping_off :
    let s := (onLine fun l => { l with stopping := some .cut }).setAdmin (.deferred 5 (.stopLine 1))
    let t := after (.stoppingLineOff 1) s
    (t.line 1).engine = .off ∧ t.admin = .idle ∧ t.writer.holding.map (fun c => c.status) = [.done] := by decide +kernel

/-- R163: with slot FFh the lowest ABSENT slot is filled, PROBING with its resync flag set, and named in the detail. -/
theorem test_define_station :
    let s := (adminFetch live).modStation 0 fun _ => stationAt .online
    let t := after (.defineStation 9 (bodyOf [(3, 255), (4, 1), (5, 34), (6, 20), (7, 2), (8, 3), (9, 5), (10, 1)])) s
    (t.station 1).state = .probing ∧ (t.station 1).resync = true ∧ t.writer.holding.map (fun c => c.detail) = [1] := by decide +kernel

/-- R4: after a character with a framing error on a low line a break is reported, once. -/
theorem test_break :
    let s := onLine fun l => { l with rxHigh := false, rxPhase := .inCharacter, lowSinceEdge := true }
    let t := after (.characterReceived 1 (samplesOf 0) false false) s
    let u := after (.breakDetected 1) t
    (u.line 1).breakFlag = true ∧ (u.line 1).counters.breaks = 1 ∧ ((after (.breakDetected 1) u).line 1).counters.breaks = 1 := by
  decide +kernel

/-- R4: a line that returned high inside the character gives no break. -/
theorem test_no_break :
    let s := onLine fun l => { l with rxHigh := false, rxPhase := .inCharacter, lowSinceEdge := true }
    let t := after (.characterReceived 1 (samplesOf 0) false false) (after (.rxnLevelChange 1 false) (after (.rxnLevelChange 1 true) s))
    (t.line 1).rxPhase = .waitHigh ∧ ((after (.breakDetected 1) t).line 1).breakFlag = false := by decide +kernel

/-- R174, R181: a read that arrives in step 1 of a reset returns the reset value, and what a held write has left. -/
theorem test_held_read :
    let s := (withBurst live .shadowWriter 32).modHbi fun h => { h with resetting := some .function, mask := 0x7F }
    s.readRegister 0x10#6 = 0#32 ∧ s.readRegister 0x08#6 = 0x80#32 ∧ (after (.attentionMask 5) s).readRegister 0x10#6 = 5#32 := by
  decide +kernel

/-- R194: bytes 4 to 8 of a completion: status TIMEOUT, detail 2, kind POLL with station state SUSPECT and phase 1, origin, attempts. -/
theorem test_completion_bytes :
    ((({ anyCompletion with status := .timeout, detail := 2, kind := .poll, stationState := 3, origin := 12, attempts := 3, segments := 0 } :
      Completion).bytes true).drop 4).take 5 = [2#8, 2#8, 0x8E#8, 12#8, 3#8] := by decide

/-! ### Witnesses: states and operands that meet the hypotheses of a statement -/

/-- Zero bytes from an offset on, by a check the kernel runs. -/
theorem zeroFrom_of_check (body : AdminBody) (offset : Nat)
    (h : ((List.range 32).all fun k => decide (k < offset) || argByte body k == 0#8) = true) : ZeroFrom body offset := by
  intro k h1 h2
  have := List.all_eq_true.1 h k (List.mem_range.2 h2)
  simpa [Nat.not_lt.2 h1] using this

/-- A live device whose admin ring's fetch ends takes its record. -/
theorem adminFetch_takes : (adminFetch live).AdminTakes := ⟨by decide, rfl, rfl, rfl, rfl⟩

/-- The take does not look at lines, stations, polls, the writer or the capture unit. -/
theorem adminTakes_of_same (s : State) (h1 : s.hbi = (adminFetch live).hbi) (h2 : s.admin = .idle)
    (h3 : s.ringUnit = live.ringUnit) : s.AdminTakes := by
  refine ⟨?_, ?_, ?_, h2, ?_⟩
  · rw [State.burstOf, h1]; decide
  · rw [h1]; rfl
  · rw [h1]; rfl
  · rw [h3]; rfl

theorem witness_StepRunsTheFrontCommand : State.reset.pending = [] := rfl

/-- A busy line with four prefetched requests, eight follow-up entries and a full holding queue meets the bounds and steps. -/
theorem witness_StepKeepsQueueDepths :
    let s := { full (onLine fun l => { holding .quiet l with
        prefetched := List.replicate 4 requestAt
        followUp := ([0, 1, 2, 3, 4, 5, 6, 7] : List SlotId).map fun k => { kind := .probe, slot := k } }) with
      pending := [.quietTimerExpiry 1] }
    s.QueuesInBounds ∧ ∃ t, step s = .next t := by
  intro s
  exact ⟨by unfold State.QueuesInBounds Line.QueuesInBounds; decide +kernel, _, rfl⟩

/-- A station in each used state at an end of its range. -/
theorem witness_StepKeepsStationRanges :
    let s := { live with
      stations := ((((live.stations.set 0 { stationAt .probing with failures := 2 }).set 1 (stationAt .online)).set 2
        { stationAt .suspect with failures := 2 }).set 3 { stationAt .offline with failures := 3, reprobe := 5 }).set 4 (stationAt .held)
      pending := [.cycleStart 1] }
    s.StationsInRange ∧ ∃ t, step s = .next t := by
  intro s
  refine ⟨?_, _, rfl⟩
  have h : ∀ k : SlotId, ((s.station k).state = .absent ∧ (s.station k).failures = 0 ∧ (s.station k).reprobe = 0) ∨ k.val < 5 := by
    decide +kernel
  intro k
  rcases h k with ⟨h1, h2, h3⟩ | hk
  · exact ⟨by simp only [Station.HealthInRange, h1, h2], fun _ => h3⟩
  · have : k.val = 0 ∨ k.val = 1 ∨ k.val = 2 ∨ k.val = 3 ∨ k.val = 4 := by omega
    have : k = 0 ∨ k = 1 ∨ k = 2 ∨ k = 3 ∨ k = 4 := by simp only [Fin.ext_iff]; exact this
    rcases this with rfl | rfl | rfl | rfl | rfl <;>
      exact ⟨by show (_ ∧ _); decide, by unfold Station.ReprobeOnlyOffline; decide⟩

theorem witness_StepKeepsCounterRanges :
    let s := { onLine fun l => { holding .idle l with counters := { l.counters with strayCharacters := 65535 }, share := 15 } with
      pending := [.characterReceived 1 (samplesOf 0) false true] }
    s.CountersInRange ∧ ∃ t, step s = .next t := by
  intro s
  exact ⟨by unfold State.CountersInRange Line.CountersInRange; decide +kernel, _, rfl⟩

theorem witness_StepKeepsPollLists :
    let s := { (onLine fun l => { l with pollList := [4] }).modPoll 4 fun _ => pollAt .idle with pending := [.cycleStart 1] }
    s.PollListsConsistent ∧ ∃ t, step s = .next t := by
  intro s
  exact ⟨⟨by decide +kernel, by decide +kernel, fun _ _ h => nomatch h⟩, _, rfl⟩

theorem witness_FaultedIsLeftOnlyByReset :
    isReset (.registerWrite 0x04 0) = false ∧ (inDevice .faulted).hbi.device = .faulted ∧
      ∃ t, exec (.registerWrite 0x04 0) (inDevice .faulted) = .next t :=
  ⟨by decide, rfl, _, rfl⟩

/-- A reset that waits for the burst of each requester, and a reset with none. -/
theorem witness_ResetTakesItsSteps :
    (State.reset.hbi.burst = none ∧ State.reset.hbi.resetting = none) ∧
      ∀ o ∈ [Requester.shadowWriter, .completionWriter, .captureWriter, .dataMover 0, .dataMover 3, .adminWriter, .ringFetch 0,
          .ringFetch 4, .contextLoader],
        let s := (withBurst live o 16).modHbi fun h => { h with resetting := some .function }
        s.hbi.burst.isSome = true ∧ s.hbi.resetting = some .function ∧ s.burstOf o = true := by
  decide +kernel

theorem witness_HeldWritesAreServedInOrder :
    let s := live.modHbi fun h => { h with resetting := some .powerOn }
    s.hbi.resetting.isSome = true ∧ live.hbi.resetting = none ∧ writesReset 0x04#6 0#32 = false ∧ writesReset 0x3F#6 2#32 = false ∧
      (0x04#6).toNat / 4 = 1 ∧ (0x07#6).toNat / 4 = 1 ∧ (0x02#32)[1] = true := by
  decide +kernel

/-- Every device state, with ENABLE clear and set, and both alignments of CONTEXT ADDRESS in UNCONFIGURED. -/
theorem witness_ControlWriteFollowsItsTable :
    (∀ d ∈ [DeviceState.unconfigured, .loading, .running, .halting, .halted, .faulted], ∀ e ∈ [true, false],
      let s := (inDevice d).modHbi fun h => { h with enable := e }
      s.hbi.resetting = none ∧ s.hbi.device = d ∧ s.hbi.enable = e) ∧
    State.reset.hbi.contextAddress.toNat % 64 = 0 ∧
    (State.reset.modHbi fun h => { h with contextAddress := 63 }).hbi.contextAddress.toNat % 64 ≠ 0 := by
  decide +kernel

theorem witness_InterruptFollowsMaskAndEnable :
    live.hbi.resetting = none ∧
      (live.modHbi fun h => { h with irqEnable := true, attention := 0x40, mask := 0x40 }).interrupt = true := by
  decide +kernel

theorem witness_AcknowledgeClearsWhatIsWritten :
    live.hbi.resetting = none ∧ (0x40#32)[0] = false ∧ (0x01#32)[0] = true := by decide +kernel

/-- The first and the last byte offset of each register's word. -/
theorem witness_RegisterWriteActsAtItsOffset :
    (0x04#6).toNat / 4 = 1 ∧ (0x07#6).toNat / 4 = 1 ∧ (0x02#32)[1] = true ∧ (0x05#32)[1] = false ∧ (0x0C#6).toNat / 4 = 3 ∧
      (0x13#6).toNat / 4 = 4 ∧ (0x14#6).toNat / 4 = 5 ∧ (0x18#6).toNat / 4 = 6 ∧ (0x1F#6).toNat / 4 = 7 ∧ (0x20#6).toNat / 4 = 8 ∧
      (0x2B#6).toNat / 4 = 10 ∧ (0x00#6).toNat / 4 ∈ [0, 2, 9, 11, 12, 13, 14, 15] ∧
      (0x3F#6).toNat / 4 ∈ [0, 2, 9, 11, 12, 13, 14, 15] ∧ State.reset.hbi.device = .unconfigured ∧ live.hbi.device ≠ .unconfigured ∧
      live.hbi.resetting = none ∧
      (∀ k : Fin 16, (BitVec.ofNat 6 (4 * k.val)).toNat / 4 = k.val ∧ (BitVec.ofNat 6 (4 * k.val + 3)).toNat / 4 = k.val) ∧
      (live.modCapture fun c => { c with releaseOffset := 1048575, writeOffset := 1048575 }).capture.releaseOffset < 1048576 ∧
      (live.modCapture fun c => { c with config := some { captureHold with mode := .loop } }).capture.config =
        some { captureHold with mode := .loop } ∧
      live.capture.config = none ∧ (live.modHbi fun h => { h with resetting := some .function }).hbi.resetting = some .function := by
  decide +kernel

/-- Ring ids 4, 5 and 15; the accepted index itself, exactly the size, one past it, and one behind. -/
theorem witness_NotifyIsValidated :
    let s := live.modRing 4 fun g => { g with state := .active, size := 16, consumer := 65530, accepted := 65534 }
    let ahead := fun p : Nat => (p + 65536 - (s.ring 4).consumer.toNat) % 65536
    let behind := ((s.ring 4).accepted.toNat + 65536 - (s.ring 4).consumer.toNat) % 65536
    s.hbi.resetting = none ∧ s.hbi.device = .running ∧ (inDevice .halted).hbi.device = .halted ∧
      State.reset.hbi.device = .unconfigured ∧ (0x00040000#32).toNat / 65536 % 16 = (4 : RingId).val ∧
      5 ≤ (0x00050000#32).toNat / 65536 % 16 ∧ 5 ≤ (0x000F0000#32).toNat / 65536 % 16 ∧ (s.ring 4).state = .active ∧
      ((s.modRing 4 fun g => { g with state := .faulted }).ring 4).state = .faulted ∧
      (behind ≤ ahead 65534 ∧ ahead 65534 ≤ (s.ring 4).size) ∧ (behind ≤ ahead 10 ∧ ahead 10 ≤ (s.ring 4).size) ∧
      (s.ring 4).size < ahead 11 ∧ ahead 65533 < behind := by
  decide +kernel

/-- The released index itself, the producer index, and one past it. -/
theorem witness_CompletionReleaseIsValidated :
    let s := live.modWriter fun w => { w with released := 65530, producer := 4 }
    let moved := fun v : Nat => (v + 65536 - s.writer.released.toNat) % 65536
    let span := (s.writer.producer.toNat + 65536 - s.writer.released.toNat) % 65536
    s.hbi.resetting = none ∧ s.hbi.device = .running ∧ (inDevice .faulted).hbi.device = .faulted ∧ moved 65530 ≤ span ∧
      moved 4 ≤ span ∧ span < moved 5 ∧ span < moved 65529 := by
  decide +kernel

/-- The release offset, the write offset, one word past it, an unaligned value and the size; pause at each mark. -/
theorem witness_CaptureReleaseIsValidated :
    let s := live.modCapture fun c => { c with config := some captureHold, writeOffset := 100, releaseOffset := 0, unreleased := 100 }
    let used := fun (k : Nat) (paused : Bool) => s.modCapture fun c => { c with unreleased := k, paused := paused }
    let free := fun k : Nat => captureHold.size - ((used k false).capture.unreleased) - (used k false).capture.reserved
    s.hbi.resetting = none ∧ s.hbi.device ≠ .faulted ∧ captureHold.mode = .hold ∧ s.capture.releaseValid 1024 0 = true ∧
      s.capture.releaseValid 1024 100 = true ∧ s.capture.releaseValid 1024 104 = false ∧ s.capture.releaseValid 1024 98 = false ∧
      s.capture.releaseValid 1024 1024 = false ∧ (inDevice .faulted).hbi.device = .faulted ∧ live.capture.config = none ∧
      free 881 < 144 ∧ 144 ≤ free 880 ∧ free 809 < 216 ∧ 216 ≤ free 808 ∧ (used 808 true).capture.paused = true ∧
      (used 880 false).capture.paused = false := by
  decide +kernel

/-- A request at the pointer itself, one nine places on, and none. -/
theorem witness_BusIsGrantedRoundRobin :
    let s := live.modRingUnit fun u => { u with shadowMarked := true }
    let at' := fun p : Fin 10 => s.modHbi fun h => { h with busPointer := p }
    s.hbi.burst = none ∧ s.hbi.resetting = none ∧ s.hbi.device ≠ .faulted ∧ (∀ k, live.request k = none) ∧
      (∃ k : Fin 10, (s.request k).isSome = true ∧ (∀ i : Fin 10, i < 0 → (at' k).request ((at' k).hbi.busPointer + i) = none) ∧
        ∀ i : Fin 10, i < 9 → (at' (k + 1)).request ((at' (k + 1)).hbi.busPointer + i) = none) ∧
      (withBurst s .shadowWriter 32).hbi.burst.isSome = true ∧ s.ringUnit.shadowRest = none ∧
      (s.modRingUnit fun u => { u with shadowRest := some [1] }).ringUnit.shadowRest = some [1] ∧ (live.line 1).job = none ∧
      -- the second half of a copy at 30h: its 16 bytes fit
      (let h := s.modRingUnit fun u => { u with shadowAddress := 0x30, shadowRest := some (List.replicate 16 1) }
       h.ringUnit.shadowRest = some (List.replicate 16 1) ∧ 16 ≤ 64 - (h.ringUnit.shadowAddress + 16#32).toNat % 64) ∧
      -- the ring next in turn, at once and four rings on; the completion ring with one place left and full
      (let r := live.modRing 0 fun g => { g with state := .active, size := 16, accepted := 1 }
       let far := r.modRingUnit fun u => { u with fetchNext := 1 }
       live.ringToFetch = none ∧ r.ringToFetch = some 0 ∧ (∀ q, live.ringEligible q = false) ∧ r.ringUnit.requested = none ∧
         r.askFetch.ringUnit.requested = some 0 ∧ (r.modRingUnit fun u => { u with requested := some 4 }).ringEligible 4 = false ∧
         r.ringEligible (r.ringUnit.fetchNext + 0) = true ∧
         far.ringEligible (far.ringUnit.fetchNext + 4) = true ∧
         (∀ i : RingId, i < 4 → far.ringEligible (far.ringUnit.fetchNext + i) = false)) ∧
      (inDevice .loading).hbi.device = .loading ∧
      (let w := fun k : Half => live.modWriter fun v => { v with size := 16, holding := [anyCompletion], producer := k }
       ((w 15).writer.producer - (w 15).writer.released).toNat < (w 15).writer.size ∧
         (w 16).writer.size ≤ ((w 16).writer.producer - (w 16).writer.released).toNat ∧ (w 15).writer.holding = anyCompletion :: []) := by
  decide +kernel

/-- What each requester but the rings' has to carry, as the grant finds it: the data movers, the capture writer, the admin data writer. -/
theorem witness_BusIsGrantedRoundRobin_bytes :
    (∀ cut ∈ [false, true],
      let l := (onLine fun l => { holding .deliver l with job := some (.payloadRead 0x103C 64 []), cutting := cut }).line 1
      let m := (onLine fun l => { holding .deliver l with job := some (.responseWrite 0x103C [1, 2] (.finish .ok)), cutting := cut }).line 1
      l.engine = .deliver ∧ l.job = some (.payloadRead 0x103C 64 []) ∧ l.cutting = cut ∧
        m.job = some (.responseWrite 0x103C [1, 2] (.finish .ok)) ∧ m.cutting = cut) ∧
    (∀ w ∈ [SlotWrite.oddGeneration, .data, .header, .evenGeneration],
      let l := (onLine fun l =>
        { holding .deliver l with exchange := some pollExchange, job := some (.slotWrite w .ok [1, 2] 1 7) }).line 1
      l.engine = .deliver ∧ l.job = some (.slotWrite w .ok [1, 2] 1 7) ∧ l.exchange = some pollExchange ∧ pollExchange.origin = .poll 4) ∧
    (∀ done ∈ [false, true],
      let p : Placed := { line := 1, pad := some (1000, 24), padWritten := done, offset := 0, bytes := List.replicate 72 0, written := 0 }
      let s := live.modCapture fun c => { c with config := some captureHold, writeQueue := [p] }
      s.capture.writeQueue = p :: [] ∧ s.capture.config = some captureHold ∧ p.pad = some (1000, 24) ∧ p.padWritten = done) ∧
    ((live.setAdmin (.writing 5 (.readStation 127 32 none))).admin = .writing 5 (.readStation 127 32 none) ∧
      (live.setAdmin (.writing 5 (.readLine 3 32 none))).admin = .writing 5 (.readLine 3 32 none)) := by
  decide +kernel

/-- A granted burst, with every base aligned; an eligible ring. -/
theorem witness_GrantedBurstStaysInOneBlock :
    let s := (live.modRingUnit fun u => { u with shadowMarked := true, shadowAddress := 0x30 }).modRing 0 fun g =>
      { g with state := .active, size := 16, accepted := 1 }
    (s.hbi.burst = none ∧ (∀ r, (s.ring r).base.toNat % 64 = 0) ∧ s.writer.base.toNat % 64 = 0) ∧ s.admin = .idle ∧
      (∃ t, exec .busGrant s = .next t) ∧ ((after .busGrant s).hbi.burst).isSome = true ∧ s.ringToFetch = some 0 ∧
      (∀ r, s.burstOf (.ringFetch r) = false) ∧ (withBurst s (.ringFetch 4) 32).burstOf (.ringFetch 4) = true :=
  ⟨by decide +kernel, rfl, ⟨_, rfl⟩, by decide +kernel, by decide +kernel, by decide +kernel, by decide +kernel⟩

/-- A context block with every ring of 16 (exponent 4) or 4096 (exponent 12) records. -/
theorem witness_ContextLoadEnds :
    let s := withBurst (inDevice .loading) .contextLoader 64
    let data := blockOf [(24, 4), (25, 12), (26, 4), (27, 12), (28, 4), (29, 12)]
    let byte := fun k : Nat => data.toList.getD k 0#8
    s.burstOf .contextLoader = true ∧ s.hbi.resetting = none ∧ s.hbi.device = .loading ∧ s.hbi.contextAddress.toNat % 64 = 0 ∧
      (∀ r < 6, (byte (4 * r + 3) ++ byte (4 * r + 2) ++ byte (4 * r + 1) ++ byte (4 * r) : BitVec 32).toNat % 64 = 0 ∧
        4 ≤ (byte (24 + r)).toNat ∧ (byte (24 + r)).toNat ≤ 12) ∧ byte 30 = 0#8 ∧ byte 31 = 0#8 ∧
      (∀ k < 64, 36 ≤ k → byte k = 0#8) ∧ ((blockOf [(24, 3)]).toList.getD 24 0#8).toNat < 4 ∧
      12 < ((blockOf [(24, 13)]).toList.getD 24 0#8).toNat := by
  decide +kernel

/-- Checks 1 and 11 fail a record, and none does; a request ring's fetch of running line 1 with three requests held and one entry free. -/
theorem witness_RequestChecksInOrder :
    let s := withBurst ((onLine fun l => { l with prefetched := List.replicate 3 requestAt }).modWriter fun w =>
      { w with holding := List.replicate 15 anyCompletion }) (.ringFetch (1 : LineId).succ) 32
    malformedCheck (recordOf []) = some 2 ∧ malformedCheck (recordOf [(4, 0x40)]) = some 1 ∧
      malformedCheck (recordOf [(4, 0x18), (5, 33), (6, 0x10), (7, 1)]) = some 11 ∧
      malformedCheck (recordOf [(4, 0x10), (5, 33), (6, 0x6F), (7, 64), (8, 16)]) = none ∧
      s.burstOf (.ringFetch (1 : LineId).succ) = true ∧ s.hbi.resetting = none ∧ s.hbi.device = .running ∧ (s.line 1).engine ≠ .off ∧
      (s.line 1).stopping = none ∧ s.ringUnit.fetchVoid = false ∧ (s.line 1).prefetched.length < 4 ∧ s.writer.holding.length < 16 := by
  decide +kernel

/-- The states left in the ring: HALTING, an OFF line, a STOPPING line, a voided fetch; and a full holding queue. -/
theorem witness_RequestFetchEnds :
    let fetch := fun s : State => withBurst s (.ringFetch (1 : LineId).succ) 32
    let s := fetch (onLine fun l => l)
    (s.burstOf (.ringFetch (1 : LineId).succ) = true ∧ s.hbi.resetting = none ∧ s.hbi.device = .running ∧ (s.line 1).engine ≠ .off ∧
      (s.line 1).stopping = none ∧ s.ringUnit.fetchVoid = false ∧ (s.line 1).prefetched.length < 4 ∧ s.writer.holding.length < 16) ∧
    (full s).writer.holding.length = 16 ∧ (fetch (inDevice .halting)).hbi.device ≠ .running ∧ ((fetch live).line 1).engine = .off ∧
    ((fetch (onLine fun l => { l with stopping := some .drain })).line 1).stopping.isSome = true ∧
    (s.modRingUnit fun u => { u with fetchVoid := true }).ringUnit.fetchVoid = true ∧
    malformedCheck (recordOf [(4, 0x10), (5, 33), (6, 0x10), (7, 1)]) = none ∧ malformedCheck (recordOf []) = some 2 := by
  decide +kernel

/-- Codes 01h, 0Eh, 00h and 0Fh of an admin record. -/
theorem witness_AdminFetchEnds :
    let s := adminFetch live
    s.burstOf (.ringFetch 0) = true ∧ s.hbi.resetting = none ∧ s.hbi.device = .running ∧ s.admin = .idle ∧
      s.ringUnit.fetchVoid = false ∧ adminCode (recordOf [(2, 1)]) = 0x01#8 ∧ adminCode (recordOf [(2, 14)]) = 0x0E#8 ∧
      unknownCode (adminCode (recordOf [])) = true ∧ unknownCode (adminCode (recordOf [(2, 15)])) = true ∧
      (adminFetch (inDevice .halting)).hbi.device = .halting ∧ (adminFetch (inDevice .faulted)).hbi.device = .faulted := by
  decide +kernel

theorem witness_SeriousBusErrorFaultsTheDevice :
    (∀ o ∈ [Requester.shadowWriter, .completionWriter], (withBurst live o 16).burstOf o = true) ∧ live.hbi.resetting = none ∧
      live.hbi.device ≠ .faulted ∧
      -- a line in each engine state with its exchange bound to slot 9, a data mover's burst, a mark, a waiting SET CAPTURE
      (∀ e ∈ [Engine.off, .idle, .quiet, .lead, .send, .trail, .await, .receive, .backoff, .deliver, .completeWait],
        let s := (onLine (holding e)).modPoll 4 fun _ => pollAt .due
        (s.line 1).engine = e ∧ (s.line 1).exchange = some exchangeAt ∧ exchangeAt.station = some 9 ∧ s.hbi.device ≠ .faulted ∧
          ∀ m : LineId, m ≠ 1 → (s.line m).exchange = none) ∧
      (withBurst (onLine (holding .deliver)) (.dataMover 1) 16).burstOf (.dataMover 1) = true ∧
      (live.modLine 1 fun l => { l with pollList := [4] }).lines[1].pollList = [4] ∧
      (live.setAdmin (.deferred 5 (.setCapture none))).admin = .deferred 5 (.setCapture none) ∧
      -- exchanges that end in FAULTED, and the bursts that end there
      (let f := fun x : Exchange => (inDevice .faulted).modLine 1 fun l => { holding .deliver l with exchange := some x }
       (∀ x ∈ [requestAt.exchange .broadcast, exchangeAt, pollExchange, ({ kind := .eventFetch, slot := 9 } : FollowUp).exchange],
         ((f x).line 1).exchange = some x ∧ (f x).hbi.device = .faulted) ∧
       (requestAt.exchange .broadcast).station = none ∧ (requestAt.exchange .broadcast).origin = .request requestAt ∧
       pollExchange.station = some 9 ∧ pollExchange.origin = .poll 4 ∧
       (((f pollExchange).modPoll 4 fun _ => pollAt .inFlight).poll 4).state = .inFlight ∧
       (((f pollExchange).modPoll 4 fun _ => pollAt .deleting).poll 4).state = .deleting) ∧
      (∀ o ∈ [Requester.shadowWriter, .completionWriter, .captureWriter, .dataMover 3, .ringFetch 0, .ringFetch 4],
        let s := withBurst (inDevice .faulted) o 16
        s.burstOf o = true ∧ s.hbi.resetting = none ∧ s.hbi.device = .faulted) := by decide +kernel

/-- A held entry; the threshold reached exactly; a running and a stopped holdoff timer. -/
theorem witness_CompletionWriteEnds :
    let s := withBurst (live.modWriter fun w => { w with size := 16, holding := [anyCompletion], threshold := 4, moderationCount := 3 })
      .completionWriter 16
    s.burstOf .completionWriter = true ∧ s.hbi.resetting = none ∧ s.hbi.device ≠ .faulted ∧ s.writer.holding = anyCompletion :: [] ∧
      (s.modWriter fun w => { w with holdoffTimer := some 50 }).writer.holdoffTimer = some 50 ∧ s.writer.holdoffTimer = none ∧
      (∀ k, s.claimOf k = none) ∧
      -- a full queue with a claim waiting at the pointer and six places on, no cycle start next; and with one next that reports an OVERRUN
      (let u := (full (live.modLine 1 fun l => { holding .completeWait l with claim := some anyCompletion })).modWriter fun w =>
         { w with pointer := 1 }
       let v := u.modWriter fun w => { w with pointer := 2 }
       (u.writer.holding = anyCompletion :: List.replicate 15 anyCompletion ∧ (List.replicate 15 anyCompletion).length < 16) ∧
         (1 : Fin 7) = u.writer.pointer + 0 ∧ u.claimOf 1 = some anyCompletion ∧ (1 : Fin 7) = v.writer.pointer + 6 ∧
         (∀ i : Fin 7, i < 6 → v.claimOf (v.writer.pointer + i) = none) ∧ u.pending = [] ∧
         (let due := fun (p : Poll) => { ((u.modLine 3 fun l => { l with cycleTimer := .running 1, pollList := [4] }).modPoll 4
            fun _ => p) with pending := [.cycleStart 3] }
          let again := { pollAt .inFlight with dueAgain := true }
          (due (pollAt .due)).pending = .cycleStart 3 :: [] ∧ ((due (pollAt .due)).line 3).cycleTimer = .running 1 ∧
            4 ∈ ((due (pollAt .due)).line 3).pollList ∧ ((due (pollAt .due)).poll 4).state = .due ∧ (pollAt .due).mode = .always ∧
            ((due again).poll 4).state = .inFlight ∧ ((due again).poll 4).dueAgain = true ∧
            (((due again).line 3).counters.cycle + 1).toNat % ((due again).poll 4).divisor = ((due again).poll 4).phase)) := by
  decide +kernel

/-- The pointer at the claimant, and at the one after it; one entry free. -/
theorem witness_ClaimIsGrantedRoundRobin :
    let s := (onLine fun l => { holding .completeWait l with claim := some anyCompletion }).modWriter fun w =>
      { w with holding := List.replicate 15 anyCompletion, pointer := 1 }
    let u := s.modWriter fun w => { w with pointer := 2 }
    let a := live.setAdmin (.claiming anyCompletion)
    let r := live.modRingUnit fun u => { u with claim := some (1, anyCompletion) }
    let m := live.modStation 127 fun _ => { stationAt .offline with notice := true }
    s.writer.holding.length < 16 ∧ s.hbi.device ≠ .faulted ∧ (1 : Fin 7) = s.writer.pointer + 0 ∧ s.claimOf 1 = some anyCompletion ∧
      (1 : Fin 7) = u.writer.pointer + 6 ∧ (∀ i : Fin 7, i < 6 → u.claimOf (u.writer.pointer + i) = none) ∧
      a.claimOf 4 = some anyCompletion ∧ r.claimOf 5 = some anyCompletion ∧ m.nextNotice = some 127 ∧ (m.claimOf 6).isSome = true ∧
      16 ≤ (full live).writer.holding.length ∧ (∀ k, live.claimOf k = none) := by
  decide +kernel

/-- A staged frame of 1 and of 64 bytes; a tail that just fits and one that does not; a record with and without a PAD. -/
theorem witness_CaptureRecordIsPlacedAndWritten :
    let g := captureHold
    let frame := fun k : Nat => ({ payload := List.replicate k 1, address := 33 } : Staged)
    let staged := fun (k place : Nat) => live.modCapture fun c =>
      { c with config := some g, staging := c.staging.set 1 (some (frame k)), placeOffset := place }
    let record := ({ line := 1, pad := none, padWritten := false, offset := 1012, bytes := List.replicate 12 0, written := 0 } : Placed)
    let writing := fun p : Placed => withBurst (live.modCapture fun c => { c with config := some g, writeQueue := [p] }) .captureWriter 12
    ((staged 1 1012).capture.staging[(1 : LineId)] = some (frame 1) ∧ (staged 64 956).capture.staging[(1 : LineId)] = some (frame 64) ∧
      (1 + 11) / 4 * 4 ≤ g.size - 1012 ∧ ¬(64 + 11) / 4 * 4 ≤ g.size - 956) ∧
    ((writing record).burstOf .captureWriter = true ∧ (writing record).hbi.resetting = none ∧ (writing record).hbi.device ≠ .faulted ∧
      (writing record).capture.writeQueue = record :: [] ∧ record.written < record.bytes.length ∧
      record.bytes.length ≤ record.written + (writing record).burstLength) ∧
    ({ record with bytes := List.replicate 72 0 } : Placed).written + (writing record).burstLength < 72 ∧
    (({ g with mode := .loop } : CaptureConfig).mode = .loop ∧ g.mode = .hold) ∧
    ({ record with pad := some (1000, 24) } : Placed).pad.isSome = true ∧
    -- a hand-over with nothing staged, with the unit faulted; admission with 144 bytes free, and with 143
    (live.capture.staging[(1 : LineId)] = none ∧ live.capture.config = none ∧
      ((staged 1 0).modCapture fun c => { c with fault := true }).capture.fault = true ∧
      ({ live.capture with config := some g, unreleased := 880 } : Capture).admits = true ∧
      ({ live.capture with config := some g, unreleased := 881 } : Capture).admits = false ∧
      ({ live.capture with config := some { g with mode := .loop }, unreleased := 881 } : Capture).admits = true) := by
  decide +kernel

/-- A payload read and a response write whose burst is the last one and is not; a cut one. -/
theorem witness_DataMoverBurstEnds :
    let s := fun (job : MoverJob) (cut : Bool) =>
      withBurst (onLine fun l => { holding .deliver l with job := some job, cutting := cut }) (.dataMover 1) 64
    let t := s (.payloadRead 0x1000 64 []) false
    (t.burstOf (.dataMover 1) = true ∧ t.hbi.resetting = none ∧ t.hbi.device ≠ .faulted ∧ (t.line 1).exchange = some exchangeAt ∧
      t.burstLength ≤ 64 ∧ 64 ≤ t.burstLength ∧ t.burstLength < 65) ∧
    ((s (.payloadRead 0x1000 65 []) true).line 1).cutting = true ∧ (t.line 1).cutting = false ∧
    ((s (.responseWrite 0x1000 (List.replicate 64 0) (.finish .ok)) false).line 1).job =
      some (.responseWrite 0x1000 (List.replicate 64 0) (.finish .ok)) ∧
    ((s (.responseWrite 0x1000 (List.replicate 65 0) .continueRead) false).line 1).job =
      some (.responseWrite 0x1000 (List.replicate 65 0) .continueRead) := by
  decide +kernel

/-- The four writes, the data write at its last burst and before it. -/
theorem witness_SlotWritesFollowInOrder :
    let s := fun (w : SlotWrite) (payload : List Byte) =>
      withBurst (onLine fun l =>
        { holding .deliver l with exchange := some pollExchange, job := some (.slotWrite w .ok payload 0 0) }) (.dataMover 1) 16
    (∀ w ∈ [SlotWrite.oddGeneration, .data, .header, .evenGeneration],
      (s w [1]).burstOf (.dataMover 1) = true ∧ (s w [1]).hbi.resetting = none ∧ (s w [1]).hbi.device ≠ .faulted ∧
        ((s w [1]).line 1).job = some (.slotWrite w .ok [1] 0 0)) ∧
    (((s .data [1]).line 1).exchange = some pollExchange ∧ pollExchange.origin = .poll 4) ∧
    16 ≤ 0 + (s .data (List.replicate 16 1)).burstLength ∧ 0 + (s .data (List.replicate 17 1)).burstLength < 17 := by
  decide +kernel

/-- The three commands with a data write, in RUNNING and in FAULTED; a free and a full holding queue. -/
theorem witness_AdminDataWriteEnds :
    let s := fun (d : DeviceState) (w : AdminWrite) => withBurst ((inDevice d).setAdmin (.writing 5 w)) .adminWriter 32
    (∀ d ∈ [DeviceState.running, .faulted], (s d (.readStation 9 32 (some .online))).burstOf .adminWriter = true ∧
      (s d (.readStation 9 32 (some .online))).hbi.resetting = none ∧
      (s d (.readStation 9 32 (some .online))).admin = .writing 5 (.readStation 9 32 (some .online))) ∧
    (s .running (.readLine 1 32 (some { jam := true, breakCause := false, overrun := false, breakFlag := false }))).admin =
      .writing 5 (.readLine 1 32 (some { jam := true, breakCause := false, overrun := false, breakFlag := false })) ∧
    live.writer.holding.length < 16 ∧ 16 ≤ (full live).writer.holding.length ∧
    -- B first, in the middle and last of a list
    ([4, 5, 6] : List PollId) = [] ++ 4 :: [5, 6] ∧ ([4, 5, 6] : List PollId) = [4] ++ 5 :: [6] ∧ 5 ∉ ([4] : List PollId) ∧
    ([4, 5, 6] : List PollId) = [4, 5] ++ 6 :: [] ∧ 6 ∉ ([4, 5] : List PollId) := by
  decide +kernel

/-- CONFIGURE LINE's settings at their lowest. -/
def lowLine : AdminBody := bodyOf [(3, 1), (4, 8), (6, 10), (9, 1), (12, 2), (13, 2), (16, 1)]

/-- CONFIGURE LINE's settings at their highest. -/
def highLine : AdminBody :=
  bodyOf [(3, 3), (4, 255), (5, 255), (6, 0x60), (7, 0xEA), (8, 2), (9, 2), (10, 15), (11, 15), (12, 63), (13, 63), (14, 1), (15, 15),
    (16, 255), (17, 15)]

theorem lineSettings_in_range :
    (configureLineChecks lowLine).all (fun c => !c) = true ∧ (configureLineChecks highLine).all (fun c => !c) = true ∧
      (argHalf lowLine 6).toNat = 10 ∧ (argHalf highLine 6).toNat = 60000 := by decide +kernel

/-- CONFIGURE LINE with every argument at its least and its greatest value, on an OFF line and one that is not. -/
theorem witness_ConfigureAndStartNeedOff :
    (adminFetch live).AdminTakes ∧ ZeroFrom lowLine 18 ∧ ZeroFrom highLine 18 ∧ ZeroFrom (bodyOf [(3, 3)]) 4 ∧
      ((configureLineChecks lowLine).all (fun c => !c) = true ∧ (configureLineChecks highLine).all (fun c => !c) = true ∧
        (argHalf lowLine 6).toNat = 10 ∧ (argHalf highLine 6).toNat = 60000) ∧
      ((adminFetch live).line 1).engine = .off ∧ (adminFetch (onLine fun l => l)).AdminTakes ∧
      ((adminFetch (onLine fun l => l)).line 1).engine ≠ .off :=
  ⟨adminFetch_takes, zeroFrom_of_check _ _ (by decide +kernel), zeroFrom_of_check _ _ (by decide +kernel),
    zeroFrom_of_check _ _ (by decide +kernel), lineSettings_in_range, by decide +kernel,
    adminTakes_of_same _ rfl rfl rfl, by decide +kernel⟩

/-- STOP LINE in both modes, and a line in each engine state. -/
theorem witness_StopLineStopsOrWaits :
    (adminFetch live).AdminTakes ∧ (adminFetch (onLine (holding .send))).AdminTakes ∧ ZeroFrom (bodyOf [(3, 1)]) 5 ∧
      ZeroFrom (bodyOf [(3, 1), (4, 1)]) 5 ∧ argNat (bodyOf [(3, 1), (4, 1)]) 4 = 1 ∧
      ((adminFetch (onLine (holding .send))).line 1).engine ≠ .off ∧
      (∀ e ∈ [Engine.off, .idle, .quiet, .lead, .send, .trail, .await, .receive, .backoff, .deliver, .completeWait],
        ((onLine (holding e)).line 1).engine = e) ∧
      (withBurst (onLine (holding .deliver)) (.dataMover 1) 16).burstOf (.dataMover 1) = true ∧
      (let s := onLine fun l => { l with prefetched := [requestAt], stopping := some .drain }
       (s.line 1).engine = .idle ∧ (s.line 1).prefetched = requestAt :: [] ∧ s.writer.holding.length < 16 ∧ s.hbi.device ≠ .faulted ∧
         16 ≤ (full s).writer.holding.length) ∧ (live.line 1).engine ≠ .idle ∧
      (let s := withBurst ((onLine fun l =>
         { l with followUp := [{ kind := .eventFetch, slot := 9 }], pollList := [4] }).modPoll 4 fun _ => pollAt .due) (.ringFetch 2) 32
       4 ∈ (s.line 1).pollList ∧ 5 ∉ (s.line 1).pollList ∧ (s.poll 4).state = .due ∧ (s.line 1).followUp.length = 1 ∧
         s.burstOf (.ringFetch (1 : LineId).succ) = true ∧ (live.line 0).followUp = []) :=
  ⟨adminFetch_takes, adminTakes_of_same _ rfl rfl rfl, zeroFrom_of_check _ _ (by decide +kernel),
    zeroFrom_of_check _ _ (by decide +kernel), by decide +kernel, by decide +kernel, by decide +kernel, by decide +kernel,
    by decide +kernel, by decide +kernel, by decide +kernel⟩

/-- DEFINE STATION with a named slot, with FFh, with its settings at both ends, and each of its refusals. -/
theorem witness_StationIsDefined :
    let named := bodyOf [(3, 127), (4, 1), (5, 126), (6, 255), (7, 7), (8, 15), (9, 255), (10, 1)]
    let any := bodyOf [(3, 255), (4, 1), (5, 1), (6, 1), (8, 1), (9, 1)]
    let one := (adminFetch live).modStation 127 fun _ => { stationAt .online with address := 126 }
    let all := { adminFetch live with stations := Vector.replicate 128 (stationAt .held) }
    one.AdminTakes ∧ all.AdminTakes ∧ ZeroFrom named 11 ∧ ZeroFrom any 11 ∧ (defineStationChecks named).all (fun c => !c) = true ∧
      (defineStationChecks any).all (fun c => !c) = true ∧ (one.station 127).state ≠ .absent ∧ (one.station 0).state = .absent ∧
      (∀ m, (all.station m).state ≠ .absent) ∧ ((one.station 127).line = 1 ∧ (one.station 127).address.toNat = argNat named 5) :=
  ⟨adminTakes_of_same _ rfl rfl rfl, adminTakes_of_same _ rfl rfl rfl, zeroFrom_of_check _ _ (by decide +kernel),
    zeroFrom_of_check _ _ (by decide +kernel), by decide +kernel, by decide +kernel, by decide +kernel, by decide +kernel,
    by decide +kernel, by decide +kernel⟩

/-- MODIFY STATION to threshold 2 of stations whose failures stand just below it and at it. -/
theorem witness_StationIsModified :
    let body := bodyOf [(3, 9), (4, 255), (5, 7), (6, 2), (7, 255), (8, 1)]
    let s := fun (st : StationState) (k : Nat) => (adminFetch live).modStation 9 fun _ => { stationAt st with failures := k }
    (∀ st k, (s st k).AdminTakes) ∧ ZeroFrom body 9 ∧ argNat body 3 = (9 : SlotId).val ∧ StationSettingsValid body 4 ∧
      (s .suspect 1 |>.station 9).failures < argNat body 6 ∧ argNat body 6 ≤ (s .suspect 2 |>.station 9).failures ∧
      (s .suspect 2 |>.station 9).notice = false ∧ (s .absent 0 |>.station 9).state = .absent ∧
      (let u := live.modStation 127 fun st => { st with notice := true }
       u.writer.holding.length < 16 ∧ u.hbi.device ≠ .faulted ∧ u.nextNotice = some 127 ∧ (u.claimOf 6).isSome = true ∧
         (∀ k, (live.station k).notice = false) ∧ 16 ≤ (full u).writer.holding.length) :=
  ⟨fun _ _ => adminTakes_of_same _ rfl rfl rfl, zeroFrom_of_check _ _ (by decide +kernel), by decide +kernel,
    by unfold StationSettingsValid; decide +kernel, by decide +kernel, by decide +kernel, by decide +kernel, by decide +kernel,
    by decide +kernel⟩

/-- A station in each state, busy and not, named by a poll entry and not. -/
theorem witness_StationIsHeldReleasedRemoved :
    let s := fun (st : StationState) (busy : Bool) => (adminFetch live).modStation 9 fun _ => { stationAt st with busy := busy }
    let named := (s .online true).modPoll 4 fun _ => pollAt .deleting
    (∀ st busy, (s st busy).AdminTakes) ∧ named.AdminTakes ∧ ZeroFrom (bodyOf [(3, 9)]) 4 ∧ ZeroFrom (bodyOf [(3, 127)]) 4 ∧
      argNat (bodyOf [(3, 9)]) 3 = (9 : SlotId).val ∧ ((s .online true).station 9).busy = true ∧
      (∀ id, ((s .online true).poll id).state = .free) ∧ ((named.poll 4).state ≠ .free ∧ (named.poll 4).station = 9) :=
  ⟨fun _ _ => adminTakes_of_same _ rfl rfl rfl, adminTakes_of_same _ rfl rfl rfl, zeroFrom_of_check _ _ (by decide +kernel),
    zeroFrom_of_check _ _ (by decide +kernel), by decide +kernel, by decide +kernel, by decide +kernel, by decide +kernel⟩

/-- READ of slot 127 and of line 3, DEFINE POLL with its arguments at their ends, DELETE POLL in each state. -/
theorem witness_ReadsAndPollCommands :
    let read := bodyOf [(3, 127), (4, 0x20)]
    let define := bodyOf [(3, 95), (5, 0x10), (8, 13), (9, 127), (10, 0x6F), (11, 16), (12, 64), (13, 255), (14, 254), (15, 255)]
    let s := fun st : PollState => (adminFetch live).modPoll 95 fun _ => pollAt st
    (∀ st, (s st).AdminTakes) ∧ ZeroFrom read 8 ∧ (argWord read 4).toNat % 32 = 0 ∧ (definePollChecks define).all (fun c => !c) = true ∧
      argNat define 14 < argNat define 13 ∧ (argWord define 4).toNat % 16 = 0 ∧ argNat define 3 = (95 : PollId).val ∧
      ZeroFrom (bodyOf [(3, 95)]) 4 ∧ (∀ st ∈ [PollState.free, .idle, .due, .inFlight], ((s st).poll 95).state = st) :=
  ⟨fun _ => adminTakes_of_same _ rfl rfl rfl, zeroFrom_of_check _ _ (by decide +kernel), by decide +kernel, by decide +kernel,
    by decide +kernel, by decide +kernel, by decide +kernel, zeroFrom_of_check _ _ (by decide +kernel), by decide +kernel⟩

/-- SET CAPTURE of the smallest and the largest region, its marks at their ends, and disabled; with and without a reservation. -/
theorem witness_CaptureIsConfigured :
    let small := bodyOf [(3, 1), (5, 10), (12, 144), (16, 216)]
    let large := bodyOf [(3, 1), (4, 1), (5, 20), (14, 8), (18, 16)]
    let waits := (adminFetch live).modCapture fun c => { c with reserved := 144 }
    (adminFetch live).AdminTakes ∧ waits.AdminTakes ∧ ZeroFrom small 20 ∧ ZeroFrom large 20 ∧ ZeroFrom (bodyOf []) 20 ∧
      (argWord small 12).toNat = 144 ∧ (argWord small 16).toNat = 144 + 72 ∧ (argWord large 12).toNat = 2 ^ argNat large 5 / 2 ∧
      (argWord large 16).toNat = 2 ^ argNat large 5 ∧ waits.capture.reserved ≠ 0 ∧ live.capture.reserved = 0 ∧
      live.capture.writeQueue = [] :=
  ⟨adminFetch_takes, adminTakes_of_same _ rfl rfl rfl, zeroFrom_of_check _ _ (by decide +kernel),
    zeroFrom_of_check _ _ (by decide +kernel), zeroFrom_of_check _ _ (by decide +kernel), by decide +kernel, by decide +kernel,
    by decide +kernel, by decide +kernel, by decide +kernel, by decide +kernel, by decide +kernel⟩

theorem witness_RingIsRestarted :
    (adminFetch live).AdminTakes ∧ (adminFetch (onLine fun l => l)).AdminTakes ∧ ZeroFrom (bodyOf [(3, 1)]) 6 ∧
      ZeroFrom (bodyOf [(3, 4), (4, 255), (5, 255)]) 6 ∧ argNat (bodyOf [(3, 4), (4, 255), (5, 255)]) 3 = (3 : LineId).val + 1 ∧
      argNat (bodyOf [(3, 1)]) 3 = (0 : LineId).val + 1 ∧ ((adminFetch live).line 3).engine = .off ∧
      ((adminFetch (onLine fun l => l)).line 1).engine ≠ .off :=
  ⟨adminFetch_takes, adminTakes_of_same _ rfl rfl rfl, zeroFrom_of_check _ _ (by decide +kernel),
    zeroFrom_of_check _ _ (by decide +kernel), by decide +kernel, by decide +kernel, by decide +kernel, by decide +kernel⟩

/-- The codes at the ends of their range; for each command a reserved byte at each end of its run, and arguments just out of range: the
first one of its numbering, and the last one behind arguments at the ends of theirs. -/
theorem witness_BadRecordsAreRefused :
    (adminFetch live).AdminTakes ∧
      ((0x00#8).toNat = 0 ∧ 14 < (0x0F#8).toNat ∧ 1 ≤ (0x01#8).toNat ∧ (0x0E#8).toNat ≤ 14) ∧
      (∀ offset ∈ [4, 5, 6, 8, 9, 11, 18, 20], argNat (bodyOf [(offset, 1)]) offset ≠ 0 ∧ argNat (bodyOf [(31, 1)]) 31 ≠ 0 ∧
        ∀ k < 32, offset ≤ k → argNat (bodyOf [(3, 200)]) k = 0) ∧
      (16 ≤ argNat (bodyOf [(8, 16)]) 8 ∧ argNat (bodyOf [(8, 15)]) 8 < 16 ∧ argNat (bodyOf [(6, 1)]) 6 ≠ 0 ∧
        argNat (bodyOf [(7, 1)]) 7 ≠ 0) ∧
      -- the first argument: 4 and 0 lines or rings, slot 128, id 96, enable 2
      (3 < argNat (bodyOf [(3, 4)]) 3 ∧ argNat (bodyOf []) 3 < 1 ∧ 4 < argNat (bodyOf [(3, 5)]) 3 ∧ 127 < argNat (bodyOf [(3, 128)]) 3 ∧
        argNat (bodyOf [(3, 128)]) 3 ≠ 255 ∧ 95 < argNat (bodyOf [(3, 96)]) 3 ∧ 1 < argNat (bodyOf [(3, 2)]) 3) ∧
      -- a later one behind good ones
      (configureLineChecks (bodyOf [(3, 3), (4, 8), (6, 10), (9, 1), (12, 2), (13, 2), (16, 1), (17, 16)]) =
          List.replicate 12 false ++ [true] ∧
        defineStationChecks (bodyOf [(3, 255), (4, 3), (5, 126), (6, 1), (7, 7), (8, 15), (9, 255), (10, 2)]) =
          List.replicate 7 false ++ [true] ∧
        modifyStationChecks (bodyOf [(3, 127), (4, 1), (5, 7), (6, 15), (7, 255), (8, 2)]) = List.replicate 5 false ++ [true] ∧
        definePollChecks (bodyOf [(3, 95), (9, 127), (10, 1), (12, 64), (13, 2), (14, 1), (15, 96)]) = List.replicate 10 false ++ [true] ∧
        setCaptureChecks (bodyOf [(3, 1), (5, 10), (12, 144), (16, 215)]) = List.replicate 5 false ++ [true]) ∧
      ((argWord (bodyOf [(3, 127), (4, 16)]) 4).toNat % 32 ≠ 0 ∧ 1 < argNat (bodyOf [(3, 3), (4, 2)]) 4) :=
  ⟨adminFetch_takes, by decide, by decide +kernel, by decide +kernel, by decide +kernel, by decide +kernel, by decide +kernel⟩

/-- Each deferred command with its condition not yet held and held. -/
theorem witness_DeferredCommandApplies :
    let s := fun w : AdminWait => live.setAdmin (.deferred 5 w)
    ((s (.stopLine 1)).admin = .deferred 5 (.stopLine 1) ∧ ((s (.stopLine 1)).line 1).engine = .off ∧
      ((onLine fun l => l).line 1).engine ≠ .off) ∧
    (((s (.holdStation 9)).station 9).busy = false ∧ ((live.modStation 9 fun st => { st with busy := true }).station 9).busy = true) ∧
    (((s (.deletePoll 4)).poll 4).state = .free ∧ ((live.modPoll 4 fun _ => pollAt .deleting).poll 4).state ≠ .free) ∧
    ((s (.setCapture none)).capture.reserved = 0 ∧ (live.modCapture fun c => { c with reserved := 144 }).capture.reserved ≠ 0) := by
  decide +kernel

theorem witness_HaltConditionIsTested :
    let s := fun enable : Bool => (inDevice .halting).modHbi fun h => { h with enable := enable }
    (∀ e, (s e).hbi.device = .halting ∧ (s e).admin = .idle ∧ (∀ n : LineId, ((s e).line n).engine = .off) ∧ (s e).hbi.enable = e) ∧
      ((onLine fun l => l).line 1).engine ≠ .off ∧ ((onLine fun l => l).line 1).stopping = none ∧
      ((onLine fun l => { l with stopping := some .cut }).line 1).stopping ≠ none := by
  decide +kernel

theorem witness_EnteringHaltingFreezesTheLines :
    let s := (onLine (holding .await)).modPoll 4 fun _ => pollAt .due
    (s.hbi.resetting = none ∧ s.hbi.device = .running ∧ s.hbi.enable = true ∧ (s.line 1).engine ≠ .off ∧ (s.line 1).engine ≠ .idle) ∧
      (∀ tag w, s.admin ≠ .deferred tag w) ∧
      -- the halt condition met at once
      (live.admin = .idle ∧ live.hbi.enable = true ∧ live.hbi.device = .running ∧ ∀ n : LineId, (live.line n).engine = .off) :=
  ⟨by decide +kernel, fun _ _ h => (nomatch h), by decide +kernel⟩

theorem witness_StoppingLineGoesOff :
    let s := (onLine fun l => { l with stopping := some .drain }).setAdmin (.deferred 5 (.stopLine 1))
    ((s.line 1).stopping ≠ none ∧ (s.line 1).engine = .idle ∧ (s.line 1).exchange = none ∧ (s.line 1).prefetched = []) ∧
      s.admin = .deferred 5 (.stopLine 1) := by decide +kernel

/-- The samples of 00h and FFh; each parity with an even and an odd number of ones; a high and a low stop bit, the line low since the edge
and not. Each engine state; a candidate of one, of four characters with LENGTH 64 and 65 next, and one a character short of complete. -/
theorem witness_ReceivedCharacterMeetsTheState :
    let s := fun (e : Engine) (candidate : List Byte) =>
      onLine fun l => { holding e l with rxPhase := .inCharacter, candidate := candidate }
    let ones := fun (b : Byte) (parityBit : Bool) =>
      (List.finRange 8).countP (fun k : Fin 8 => (samplesOf b)[k]) + (if parityBit then 1 else 0)
    (∀ b ∈ [0#8, 0x01, 0x80, 0xC3, 0xFF], ∀ k : Fin 8, (samplesOf b)[k] = b.getLsbD k) ∧
    ones 0 false % 2 = 0 ∧ ones 0 true % 2 = 1 ∧ ones 0xFF false % 2 = 0 ∧ ones 0xFF true % 2 = 1 ∧
    (∀ p ∈ [Parity.none, .even, .odd], ∀ high low,
      let t := onLine fun l => { holding .await l with
        rxPhase := .inCharacter, rxHigh := high, lowSinceEdge := low, config := { l.config with parity := p } }
      (t.line 1).config.parity = p ∧ (t.line 1).rxHigh = high ∧ (t.line 1).lowSinceEdge = low ∧ (t.line 1).rxPhase = .inCharacter) ∧
    (∀ e ∈ [Engine.off, .idle, .quiet, .lead, .send, .trail, .await, .receive, .backoff, .deliver, .completeWait],
      ((s e []).line 1).engine = e ∧ ((s e []).line 1).rxPhase = .inCharacter) ∧
    ((s .idle [0xC3, 1, 4, 16]).line 1).candidate ++ [65#8] = [0xC3#8, 1, 4, 16, 65] ∧ 64 < (65#8).toNat ∧ (64#8).toNat ≤ 64 ∧
    ([0xC3#8, 1, 4, 16, 0, 0] ++ [0#8]).length = (([0xC3#8, 1, 4, 16, 0, 0] ++ [0#8]).getD 4 0#8).toNat + 7 ∧
    ((onLine fun l => { holding .send l with config := { l.config with echoCheck := true }, echoPending := some 5 }).line 1).echoPending =
      some 5#8 ∧
    ((onLine fun l => { holding .await l with timers := { l.timers with response := .expired } }).line 1).timers.response = .expired := by
  decide +kernel

/-- The samples of the character; a low stop bit; each parity with an even and an odd number of ones. The third character with kinds 3 and 4, the fifth with LENGTH 64 and 65, the last character; the limit running and stopped. -/
theorem witness_ReceivedFrameIsCollected :
    let s := onLine fun l => { holding .receive l with
      rxPhase := .inCharacter, received := [0xC3, 0xA1], timers := { l.timers with gap := some 20 } }
    ((s.line 1).engine = .receive ∧ (s.line 1).rxPhase = .inCharacter ∧ (s.line 1).frame = some frameAt) ∧
      (∀ b ∈ [3#8, 4, 64, 65, 9], ∀ k : Fin 8, (samplesOf b)[k] = b.getLsbD k) ∧
      ((s.modLine 1 fun l => { l with rxHigh := false }).line 1).rxHigh = false ∧
      (∀ p ∈ [Parity.none, .even, .odd],
        ((s.modLine 1 fun l => { l with config := { l.config with parity := p } }).line 1).config.parity = p) ∧
      ((List.finRange 8).countP (fun k : Fin 8 => (samplesOf 3)[k]) + 0) % 2 = 0 ∧
      ((List.finRange 8).countP (fun k : Fin 8 => (samplesOf 3)[k]) + 1) % 2 = 1 ∧
      (((s.line 1).received ++ [3#8]).length = 3 ∧ (((s.line 1).received ++ [3#8]).getD 2 0#8).toNat % 8 = 3) ∧
      (((s.line 1).received ++ [4#8]).getD 2 0#8).toNat % 8 = 4 ∧ 64 < (65#8).toNat ∧
      ([0xC3#8, 0xA1, 4, 16, 0, 9] ++ [9#8]).length = (([0xC3#8, 0xA1, 4, 16, 0, 9] ++ [9#8]).getD 4 0#8).toNat + 7 ∧
      (s.line 1).timers.gap ≠ none ∧ ((s.modLine 1 fun l => { l with rxPhase := .waitEdge }).line 1).rxPhase ≠ .inCharacter ∧
      ((onLine (holding .idle)).line 1).timers.gap = none := by
  decide +kernel

theorem witness_ReceiverFollowsItsInput :
    ((onLine fun l => l).line 1).rxHigh = true ∧ ((onLine fun l => { l with rxHigh := false }).line 1).rxHigh = false ∧
      ((after (.rxnLevelChange 1 false) (onLine fun l => l)).line 1).lowSinceEdge = true ∧
      (∀ e ∈ [Engine.receive, .idle, .send],
        ((onLine fun l => { holding e l with rxHigh := false, rxPhase := .lowAfterCharacter }).line 1).rxPhase = .lowAfterCharacter ∧
          ((onLine fun l => { holding e l with rxHigh := false, rxPhase := .lowAfterCharacter }).line 1).engine = e) := by
  decide +kernel

theorem witness_ResponseTimerExpires :
    let s := fun (e : Engine) (p : RxPhase) (r : ResponseTimer) =>
      onLine fun l => { holding e l with rxPhase := p, timers := { l.timers with response := r } }
    (∀ e ∈ [Engine.await, .receive, .quiet], ∀ p ∈ [RxPhase.inCharacter, .waitEdge], ∀ r ∈ [ResponseTimer.running 200, .expired, .stopped],
      ((s e p r).line 1).engine = e ∧ ((s e p r).line 1).rxPhase = p ∧ ((s e p r).line 1).timers.response = r ∧
        ((s e p r).line 1).rxHigh = true) := by
  decide +kernel

/-- Payloads of 0 and 64 bytes; a reply with the right and a wrong check, address and function. -/
theorem witness_FramesAreBuiltAndJudged :
    ([] : List Byte).length ≤ 64 ∧ (List.replicate 64 0#8).length ≤ 64 ∧ (64#8).toNat = (List.replicate 64 0#8).length ∧
      (let check := crc16 [0xA1#8, 0x04, 0x10, 0x00]
       check.extractLsb' 8 8 ++ check.extractLsb' 0 8 = crc16 [0xA1#8, 0x04, 0x10, 0x00]) ∧
      (0xA1#8).toNat = 128 + (33#7).toNat ∧ (0x21#8).toNat ≠ 128 + (33#7).toNat ∧ 0x10#8 = frameAt.function ∧
      0x11#8 ≠ frameAt.function ∧ (0x04#8)[3] = frameAt.toggle ∧ (0x0C#8)[3] ≠ frameAt.toggle := by
  decide +kernel

/-- The attempt just within the budget of retry limit 2 and just beyond; the jam limit running. -/
theorem witness_AttemptsDrawOnABudget :
    let s := onLine fun l => { holding .quiet l with timers := { l.timers with jam := some 2550 } }
    (s.line 1).exchange = some exchangeAt ∧ exchangeAt.retryLimit = 2 ∧ (s.line 1).counted = false ∧
      ({ exchangeAt with attemptsUsed := 1 } : Exchange).attemptsUsed + 1 ≤ exchangeAt.retryLimit ∧
      exchangeAt.retryLimit < ({ exchangeAt with attemptsUsed := 2 } : Exchange).attemptsUsed + 1 ∧ (s.line 1).engine = .quiet ∧
      (s.line 1).timers.jam ≠ none := by
  decide +kernel

/-- BUSY within and beyond the limit 3; each destination; a buffer with room for a payload of 64 bytes, one byte less, and none. -/
theorem witness_JudgementDecidesTheExchange :
    let s := onLine (holding .receive)
    (s.line 1).exchange = some exchangeAt ∧ (s.line 1).frame = some frameAt ∧ exchangeAt.station = some 9 ∧
      2 + 1 ≤ (s.line 1).config.busyLimit ∧ (s.line 1).config.busyLimit < 3 + 1 ∧ exchangeAt.destination = .buffer 0x2000 64 ∧
      pollExchange.destination = .pollSlot ∧ (FollowUp.exchange { kind := .eventFetch, slot := 9 }).destination = .staging ∧
      ({ requestAt with bulkWrite := true }.exchange .request).destination = .none ∧
      ((List.replicate 64 0#8).take (64 - exchangeAt.delivered)) ≠ [] ∧
      ¬(64 - exchangeAt.delivered < (List.replicate 64 0#8).length) ∧
      (64 - ({ exchangeAt with delivered := 1 } : Exchange).delivered < (List.replicate 64 0#8).length) ∧
      (List.replicate 64 0#8).take (64 - ({ exchangeAt with delivered := 64 } : Exchange).delivered) = [] ∧
      (FollowUp.exchange { kind := .probe, slot := 9 }).source = .probe ∧ exchangeAt.source ≠ .probe := by
  decide +kernel

/-- Lead delays 0 and 15; each timer running and stopped. -/
theorem witness_LineWaitsBeforeItSends :
    let s := fun (e : Engine) (k : Nat) => onLine fun l => { holding e l with
      config := { l.config with leadDelay := k }
      timers := { l.timers with quiet := some 20, lead := some 1, backoff := some 100 } }
    (∀ e ∈ [Engine.quiet, .lead, .backoff], ∀ k ∈ [0, 15],
      ((s e k).line 1).exchange = some exchangeAt ∧ ((s e k).line 1).frame = some frameAt ∧ ((s e k).line 1).engine = e ∧
        ((s e k).line 1).timers.quiet ≠ none ∧ ((s e k).line 1).timers.lead ≠ none ∧ ((s e k).line 1).timers.backoff ≠ none ∧
        ((s e k).line 1).config.leadDelay = k) ∧
    ((onLine (holding .quiet)).line 1).timers.quiet = none := by
  decide +kernel

/-- The sixth of seven characters ends, and the last; a mismatch, a cut and a missing echo; each row of R28. -/
theorem witness_FrameIsSentCharacterByCharacter :
    let s := fun (e : Engine) (sent : Nat) (cut mismatch : Bool) => onLine fun l => { holding e l with
      sentCount := sent, cutting := cut, mismatch := mismatch, txCharacter := some 0, timers := { l.timers with trail := some 1 } }
    (frameAt.characters exchangeAt.address).length = 7 ∧ (∀ e ∈ [Engine.send, .trail], ∀ cut mismatch,
      ((s e 6 cut mismatch).line 1).exchange = some exchangeAt ∧ ((s e 6 cut mismatch).line 1).frame = some frameAt ∧
        ((s e 6 cut mismatch).line 1).engine = e ∧ ((s e 6 cut mismatch).line 1).cutting = cut ∧
        ((s e 6 cut mismatch).line 1).mismatch = mismatch ∧ ((s e 6 cut mismatch).line 1).timers.trail ≠ none) ∧
    ((s .send 5 false false).line 1).sentCount + 1 < 7 ∧ 7 ≤ ((s .send 6 false false).line 1).sentCount + 1 ∧
    -- a character in transmission and none, with each parity
    (∀ p ∈ [Parity.none, .even, .odd], ∀ c ∈ [none, some 0#8, some 0xFF],
      let l := ((onLine fun l => { l with txCharacter := c, config := { l.config with parity := p } }).line 1)
      l.txCharacter = c ∧ l.config.parity = p) ∧
    ((s .send 6 false false).line 1).echoPending = none ∧ exchangeAt.source ≠ .broadcast ∧
    (requestAt.exchange .broadcast).source = .broadcast := by
  decide +kernel

/-- One below the threshold 3, and the count that stays below it; threshold 1. -/
theorem witness_HealthFollowsItsTables :
    ({ stationAt .suspect with failures := 2 } : Station).failures + 1 = (stationAt .suspect).threshold ∧
      ({ stationAt .suspect with failures := 1 } : Station).failures + 1 ≠ (stationAt .suspect).threshold ∧
      ({ stationAt .online with threshold := 1 } : Station).threshold = 1 ∧ (stationAt .online).threshold ≠ 1 := by decide

/-- A request's, a follow-up's and a poll's exchange; seven and eight entries in the follow-up queue; an IN_FLIGHT and a DELETING entry. -/
theorem witness_ExchangeEndRunsItsSteps :
    let s := fun x : Exchange => (onLine fun l => { holding .receive l with exchange := some x }).modPoll 4 fun _ => pollAt .inFlight
    let offered := ((onLine fun l => { l with followUp := ([0, 1, 2, 3, 4, 5, 6] : List SlotId).map fun k => { kind := .probe, slot := k } }).modCapture
      fun c => { c with config := some captureHold }).modStation 9 fun _ => { stationAt .online with eventPending := true }
    ((s exchangeAt).line 1).exchange = some exchangeAt ∧ exchangeAt.station = some 9 ∧ exchangeAt.origin = .request requestAt ∧
      pollExchange.origin = .poll 4 ∧ ((s pollExchange).poll 4).state = .inFlight ∧ ((s pollExchange).poll 4).slotFault = false ∧
      (FollowUp.exchange { kind := .eventFetch, slot := 9 }).origin = .followUp 9 ∧ (requestAt.exchange .broadcast).station = none ∧
      (live.line 1).exchange = none ∧ ((onLine fun l => l).line 1).stopping = none ∧
      ((onLine fun l => { l with stopping := some .drain }).line 1).stopping ≠ none ∧
      ((offered.station 9).eventPending = true ∧ (offered.station 9).captureEnable = true ∧ (offered.line 1).stopping = none ∧
        offered.hbi.device = .running ∧ (∀ f ∈ (offered.line 1).followUp, f.slot ≠ 9) ∧ (offered.line 1).followUp.length < 8 ∧
        offered.capture.admits = true) ∧ (live.station 9).eventPending = false ∧ live.writer.holding.length < 16 ∧
      16 ≤ (full live).writer.holding.length ∧ ((live.modPoll 4 fun _ => pollAt .deleting).poll 4).state = .deleting ∧
      -- a cycle start of the line that comes with the entry to IDLE, one of another line, and an entry that is not due again
      (let lost := fun (again : Bool) (c : Instr) =>
         { (s pollExchange).modPoll 4 fun _ => { pollAt .inFlight with dueAgain := again } with pending := [c] }
       ((lost true (.cycleStart 1)).returnsDue 1 && (lost true (.cycleStart 1)).cycleStartComes 1) = true ∧
         (lost true (.cycleStart 2)).cycleStartComes 1 = false ∧ (lost false (.cycleStart 1)).returnsDue 1 = false) := by
  decide +kernel

/-- A payload that just fits the capacity 16 and one that does not; each mode; a slot fault; a cut. -/
theorem witness_PollReportIsDecided :
    let p := fun (m : ReportMode) => { pollAt .inFlight with mode := m, lastStatus := some .ok, lastSignature := some 0xFFFF }
    ({ pollExchange with status := some .ok } : Exchange).status = some .ok ∧ (List.replicate 16 0#8).length ≤ (p .never).capacity ∧
      ¬(List.replicate 17 0#8).length ≤ (p .never).capacity ∧ pollExchange.stationState = 7 ∧ (p .onChange).reports .ok (some 0xFFFF) = false ∧
      (p .onChange).reports .ok (some 0) = true ∧ (p .onError).reports .truncated none = true ∧ (p .never).reports .timeout none = false ∧
      ({ p .never with slotFault := true } : Poll).reports .ok none = true := by
  decide +kernel

theorem witness_CompletionRecordIsLaidOut :
    let c := { anyCompletion with attempts := 15, segments := 64, delivered := 4096, residue := 4096 }
    c.attempts < 16 ∧ c.segments < 128 ∧ c.delivered < 65536 ∧ c.residue < 65536 := by decide

/-- A running and a stopped timer; entries left DUE, in flight again and due at the ends of their divisor; a probe offered, served and declined. -/
theorem witness_CycleStartMarksAndOverruns :
    let s := (onLine fun l => { l with pollList := [4, 95] }).modPoll 4 fun _ => pollAt .due
    (s.line 1).cycleTimer = .running 1000 ∧ (live.line 1).cycleTimer = .stopped ∧ (s.line 1).pollList.Nodup ∧ s.hbi.device ≠ .faulted ∧
      0 ∉ (s.line 1).pollList ∧ 95 ∈ (s.line 1).pollList ∧ (1#32).toNat % (pollAt .due).divisor = (pollAt .due).phase ∧
      (0#32).toNat % (pollAt .due).divisor ≠ (pollAt .due).phase ∧
      ({ stationAt .offline with reprobe := 3 } : Station).reprobe + 1 < (stationAt .offline).reprobeInterval ∧
      (stationAt .offline).reprobeInterval ≤ ({ stationAt .offline with reprobe := 4 } : Station).reprobe + 1 ∧
      (stationAt .offline).line = 1 ∧
      -- an exchange whose entry is in flight again and due
      (let u := (onLine fun l => { holding .deliver l with
          exchange := some pollExchange, pollList := [4], counters := { l.counters with cycle := 1 } }).modPoll 4 fun _ =>
          { pollAt .inFlight with dueAgain := true }
       (u.line 1).exchange = some pollExchange ∧ pollExchange.origin = .poll 4 ∧ (u.line 1).pollList.Nodup ∧ 4 ∈ (u.line 1).pollList ∧
         u.hbi.device ≠ .faulted ∧ (u.poll 4).state = .inFlight ∧ (u.poll 4).dueAgain = true ∧
         (u.line 1).counters.cycle.toNat % (u.poll 4).divisor = (u.poll 4).phase) ∧
      s.nextWork 1 ≠ none ∧ (onLine fun l => l).nextWork 1 = none ∧
      -- cycle 0 marks nothing and brings no PROBE; an entry with phase 0 becomes DUE; a PROBE joins
      (let marks := fun (u : State) => ((u.cycleWork 1).firstDue 1).isSome
       let joins := fun (u : State) => decide ((u.line 1).followUp.length < ((u.cycleWork 1).line 1).followUp.length)
       let polled := fun p : Poll => (onLine fun l => { l with pollList := [4] }).modPoll 4 fun _ => p
       let idle := { pollAt .idle with phase := 0 }
       marks (polled (pollAt .idle)) = false ∧ joins (polled (pollAt .idle)) = false ∧ marks (polled idle) = true ∧
         joins ((onLine fun l => l).modStation 9 fun _ => { stationAt .offline with reprobe := 4 }) = true) := by
  decide +kernel

theorem witness_ArbiterChoosesInOrder :
    let s := onLine fun l => { l with prefetched := [requestAt] }
    ((s.line 1).engine = .idle ∧ (s.line 1).stopping = none ∧ s.hbi.device = .running) ∧ s.nextWork 1 = some (.request requestAt) ∧
      (onLine fun l => l).nextWork 1 = none ∧ ((onLine (holding .quiet)).line 1).engine ≠ .idle := by
  decide +kernel

/-- A station found by its address in each state and none found; a poll's station in each state; a follow-up that passes and one dropped. -/
theorem witness_DispatchChecksTheStation :
    let s := fun st : StationState => (onLine fun l => l).modStation 9 fun _ => stationAt st
    let here := fun (u : State) (k : SlotId) => decide ((u.station k).state ≠ .absent) && (u.station k).line == 1 &&
      (u.station k).address == requestAt.address
    (∀ st ∈ [StationState.probing, .online, .suspect, .offline, .held],
      here (s st) 9 = true ∧ (∀ j, here (s st) j = true → j = 9) ∧ ((s st).station 9).state = st) ∧
    (∀ k, here (s .absent) k = false) ∧ requestAt.broadcast = false ∧ (pollAt .due).station = 9 ∧
    (((s .online).modCapture fun c => { c with config := some captureHold }).capture.config ≠ none ∧
      (s .online).capture.staging[(1 : LineId)] = none) ∧ exchangeAt.source ≠ .probe ∧ (stationAt .online).resync = false ∧
    (({ requestAt with inlinePayload := false, payloadLength := 64 } : Request).exchange .request).readNeeded = some (0, 64) ∧
    exchangeAt.readNeeded = none ∧
    -- a bulk write of 130 bytes: its third segment, and none after it; an inline request's second segment
    (let x := ({ requestAt with inlinePayload := false, bulkWrite := true, payloadLength := 130 } : Request).exchange .request
     x.payload = .host 0 130 ∧ x.bulkWrite = true ∧ { x with segmentsDone := 2 }.readNeeded = some (128, 2) ∧
       { x with segmentsDone := 1 }.more = true ∧ { x with segmentsDone := 2 }.more = false) ∧
    (({ requestAt with payloadLength := 1 } : Request).exchange .request).heldPayload = [0] ∧ exchangeAt.payload = .none ∧
    exchangeAt.station = some 9 ∧ (requestAt.exchange .broadcast).station = none := by
  decide +kernel

end Sys2Proof.Tests
end

section
/-! PROOFS. Health accounting at one station entry (section 4.2): the classes of the ending statuses (R48), the resync decision (R55), the
rows of the tables for success (R70) and failure (R71), and what the exchange end does for each class. -/

namespace Sys2Proof.Machine

/-! ### The classes of the ending statuses -/

/-- The success class of R48. -/
theorem healthClass_eq_success_iff (status : Status) :
    healthClass status = .success ↔ status ∈ [Status.ok, .refused, .truncated, .segmentLimit] := by
  cases status <;> decide

/-- The failure class of R48. -/
theorem healthClass_eq_failure_iff (status : Status) :
    healthClass status = .failure ↔ status ∈ [Status.timeout, .checkError, .frameError] := by
  cases status <;> decide

/-- R55 lists the whole failure class and three neutral statuses. -/
theorem setsResync_eq_true_iff (status : Status) :
    setsResync status = true ↔ healthClass status = .failure ∨ status ∈ [Status.contention, .busyLimit, .aborted] := by
  cases status <;> decide

theorem setsResync_of_failure {status : Status} (hclass : healthClass status = .failure) : setsResync status = true :=
  (setsResync_eq_true_iff status).mpr (.inl hclass)

theorem setsResync_of_success {status : Status} (hclass : healthClass status = .success) : setsResync status = false := by
  rw [healthClass_eq_success_iff] at hclass
  revert status
  decide

namespace Station

variable {st : Station} {status : Status}

/-! ### The resync decision -/

theorem resyncDecision_of_setsResync (h : setsResync status = true) (frameSent : Bool) :
    st.resyncDecision status frameSent = { st with resync := frameSent || st.resync } := by
  cases frameSent <;> simp [resyncDecision, h]

theorem resyncDecision_of_not_setsResync (h : setsResync status = false) (frameSent : Bool) :
    st.resyncDecision status frameSent = st := by
  simp [resyncDecision, h]

/-! ### The table of R70 -/

theorem success_of_probing (h : st.state = .probing) :
    st.success = { st with state := .online, failures := 0, notice := true } := by
  simp only [success, h]

theorem success_of_online (h : st.state = .online) : st.success = { st with failures := 0 } := by
  simp only [success, h]

theorem success_of_suspect (h : st.state = .suspect) : st.success = { st with state := .online, failures := 0 } := by
  simp only [success, h]

theorem success_of_offline (h : st.state = .offline) :
    st.success = { st with state := .online, failures := 0, reprobe := 0, notice := true } := by
  simp only [success, h]

/-! ### The table of R71 -/

theorem failure_of_probing_or_suspect (h : st.state = .probing ∨ st.state = .suspect) :
    st.failure = if st.failures + 1 = st.threshold then st.enterOffline else { st with failures := st.failures + 1 } := by
  obtain h | h := h <;> simp only [failure, h]

theorem failure_of_online (h : st.state = .online) :
    st.failure = if st.threshold = 1 then st.enterOffline else { st with state := .suspect, failures := 1 } := by
  simp only [failure, h]

theorem failure_of_offline (h : st.state = .offline) : st.failure = { st with failures := st.threshold } := by
  simp only [failure, h]

/-- The table of R71 neither reads nor writes the resync flag. -/
theorem failure_with_resync (st : Station) (r : Bool) :
    ({ st with resync := r } : Station).failure = { st.failure with resync := r } := by
  cases h : st.state <;> simp only [failure, h, enterOffline] <;> split <;> rfl

/-! ### The exchange end by class -/

theorem exchangeEnd_of_success (hclass : healthClass status = .success) (frameSent : Bool) :
    st.exchangeEnd status frameSent = { st.success with good := satSucc Config.counterMax st.good } := by
  rw [exchangeEnd, resyncDecision_of_not_setsResync (setsResync_of_success hclass), hclass, account]

theorem exchangeEnd_of_failure (hclass : healthClass status = .failure) (frameSent : Bool) :
    st.exchangeEnd status frameSent =
      { st.failure with failed := satSucc Config.counterMax st.failed, resync := frameSent || st.resync } := by
  rw [exchangeEnd, resyncDecision_of_setsResync (setsResync_of_failure hclass), hclass, account, failure_with_resync]

theorem exchangeEnd_of_neutral (hclass : healthClass status = .neutral) (frameSent : Bool) :
    st.exchangeEnd status frameSent = st.resyncDecision status frameSent := by
  rw [exchangeEnd, hclass, account]

end Station

/-- The counter step of R74 with its largest value written out. -/
theorem satSucc_counterMax (k : Nat) : satSucc Config.counterMax k = if k < 65535 then k + 1 else 65535 := rfl

/-- Settles O54: the class of the ending status picks the table, the state its row. -/
theorem healthFollowsItsTables : Obligations.HealthFollowsItsTables := by
  intro st status frameSent
  refine ⟨fun hstatus => ?success, fun hstatus => ?failure, fun hstatus => ?neutral, ?busError⟩
  case success =>
    simp only [Station.exchangeEnd_of_success ((healthClass_eq_success_iff status).mpr hstatus), satSucc_counterMax]
    refine ⟨fun h => ?_, fun h => ?_, fun h => ?_, fun h => ?_⟩
    · rw [Station.success_of_probing h]
    · rw [Station.success_of_online h]
    · rw [Station.success_of_suspect h]
    · rw [Station.success_of_offline h]
  case failure =>
    simp only [Station.exchangeEnd_of_failure ((healthClass_eq_failure_iff status).mpr hstatus), satSucc_counterMax]
    refine ⟨fun h => ⟨fun hlast => ?_, fun hlast => ?_⟩, fun h => ⟨fun hone => ?_, fun hone => ?_⟩, fun h => ?_⟩
    · rw [Station.failure_of_probing_or_suspect h, if_pos hlast, Station.enterOffline]
    · rw [Station.failure_of_probing_or_suspect h, if_neg hlast]
    · rw [Station.failure_of_online h, if_pos hone, Station.enterOffline]
    · rw [Station.failure_of_online h, if_neg hone]
    · rw [Station.failure_of_offline h]
  case neutral =>
    have hclass : healthClass status = .neutral := by revert status; decide
    have hresync : setsResync status = true := (setsResync_eq_true_iff status).mpr (.inr hstatus)
    exact (Station.exchangeEnd_of_neutral hclass frameSent).trans (Station.resyncDecision_of_setsResync hresync frameSent)
  case busError =>
    rintro rfl
    exact (Station.exchangeEnd_of_neutral rfl frameSent).trans (Station.resyncDecision_of_not_setsResync rfl frameSent)

end Sys2Proof.Machine
end

section
/-! PROOFS. The arbiter's choice (sections 6.4 and 6.5): the table of R114 row by row, the work a line has open, and that every
dispatch either takes the engine out of IDLE or leaves less open work, so that the choices of R116 never run out of fuel. -/

namespace Sys2Proof.Machine

/-! ### The table of R114 -/

/-- A row that takes the first of its candidates applies when it has one. -/
theorem orElse_head?_map {α β : Type} (candidates : List α) (f : α → β) (rest : Option β) :
    ((candidates.head?.map f).orElse fun _ => rest) = if candidates ≠ [] then candidates.head?.map f else rest := by
  cases candidates <;> rfl

/-- A row that takes the head of the follow-up queue applies when the head is of its kind. -/
theorem Line.orElse_headOf_map {β : Type} (l : Line) (kind : FollowKind) (f : FollowUp → β) (rest : Option β) :
    (((l.headOf kind).map f).orElse fun _ => rest) =
      if l.followUp.head?.any (fun e => e.kind == kind) then l.followUp.head?.map f else rest := by
  unfold Line.headOf
  cases l.followUp.head? with
  | none => rfl
  | some e => cases h : e.kind == kind <;> simp [Option.filter, h]

/-- Row 3 of R114 applies when the share counter has reached a share that is not 0 and a normal record waits. -/
theorem Line.orElse_sharedNormal_map {β : Type} (l : Line) (f : Request → β) (rest : Option β) :
    ((l.sharedNormal.map f).orElse fun _ => rest) =
      let normal := l.prefetched.filter fun r => !r.urgent
      if l.config.oneShotShare ≤ l.share ∧ 0 < l.config.oneShotShare ∧ normal ≠ [] then normal.head?.map f else rest := by
  unfold Line.sharedNormal Line.oldestNormal
  rw [← List.head?_filter]
  by_cases h : 0 < l.config.oneShotShare ∧ l.config.oneShotShare ≤ l.share
  · obtain ⟨hpos, hreached⟩ := h
    simp only [hpos, hreached, decide_true, Bool.and_self, if_true, true_and, orElse_head?_map]
  · have hrow : ∀ P : Prop, ¬(l.config.oneShotShare ≤ l.share ∧ 0 < l.config.oneShotShare ∧ P) :=
      fun _ ⟨hreached, hpos, _⟩ => h ⟨hpos, hreached⟩
    rw [← Bool.decide_and, if_neg (by simpa using h)]
    exact (if_neg (hrow _)).symm

/-- The six rows of R114 in their order. -/
theorem State.nextWork_eq_table (s : State) (n : LineId) :
    let l := s.line n
    let urgent := l.prefetched.filter fun r => r.urgent
    let normal := l.prefetched.filter fun r => !r.urgent
    let due := l.pollList.filter fun id => decide ((s.poll id).state = .due)
    let head := l.followUp.head?
    s.nextWork n =
      if urgent ≠ [] then urgent.head?.map .request
      else if head.any (fun f => f.kind == .probe) then head.map .followUp
      else if l.config.oneShotShare ≤ l.share ∧ 0 < l.config.oneShotShare ∧ normal ≠ [] then normal.head?.map .request
      else if due ≠ [] then due.head?.map .poll
      else if head.any (fun f => f.kind == .eventFetch) then head.map .followUp
      else normal.head?.map .request := by
  intro l urgent normal due head
  have hurgent : l.oldestUrgent = urgent.head? := List.head?_filter.symm
  have hnormal : l.oldestNormal = normal.head? := List.head?_filter.symm
  have hdue : s.firstDue n = due.head? := List.head?_filter.symm
  calc s.nextWork n
      = (urgent.head?.map .request).orElse fun _ =>
          ((l.headOf .probe).map .followUp).orElse fun _ =>
          (l.sharedNormal.map .request).orElse fun _ =>
          (due.head?.map .poll).orElse fun _ =>
          ((l.headOf .eventFetch).map .followUp).orElse fun _ =>
          normal.head?.map .request := by rw [← hurgent, ← hnormal, ← hdue]; rfl
    _ = _ := by
      rw [orElse_head?_map, Line.orElse_headOf_map, Line.orElse_sharedNormal_map, orElse_head?_map, Line.orElse_headOf_map]

/-- Where a piece of work waits to be chosen: in the prefetch queue, in the poll list and DUE, or at the head of the follow-up queue. -/
def Work.Waits (s : State) (n : LineId) : Work → Prop
  | .request r => r ∈ (s.line n).prefetched
  | .poll id => id ∈ (s.line n).pollList ∧ (s.poll id).state = .due
  | .followUp f => (s.line n).followUp.head? = some f

/-- The arbiter invents no work. -/
theorem State.waits_of_nextWork {s : State} {n : LineId} {w : Work} (h : s.nextWork n = some w) : w.Waits s n := by
  have of_filter {p : Request → Bool} (h : (((s.line n).prefetched.filter p).head?.map Work.request) = some w) : w.Waits s n := by
    obtain ⟨r, hr, rfl⟩ := Option.map_eq_some_iff.mp h
    exact List.mem_of_mem_filter (List.mem_of_head? hr)
  have of_head (h : (s.line n).followUp.head?.map Work.followUp = some w) : w.Waits s n := by
    obtain ⟨f, hf, rfl⟩ := Option.map_eq_some_iff.mp h
    exact hf
  rw [State.nextWork_eq_table] at h
  split at h
  · exact of_filter h
  split at h
  · exact of_head h
  split at h
  · exact of_filter h
  split at h
  · obtain ⟨id, hid, rfl⟩ := Option.map_eq_some_iff.mp h
    obtain ⟨hmem, hdue⟩ := List.mem_filter.mp (List.mem_of_head? hid)
    exact ⟨hmem, of_decide_eq_true hdue⟩
  split at h
  · exact of_head h
  · exact of_filter h

/-! ### The arbiter's condition (R113) -/

theorem State.mayChoose_iff (s : State) (n : LineId) :
    s.mayChoose n = true ↔ (s.line n).engine = .idle ∧ (s.line n).stopping = none ∧ s.hbi.device = .running := by
  simp [State.mayChoose, and_assoc]

theorem State.mayChoose_of_engine {s : State} {n : LineId} (h : (s.line n).engine ≠ .idle) : s.mayChoose n = false :=
  Bool.eq_false_iff.mpr fun may => h ((s.mayChoose_iff n).mp may).1

/-! ### An engine that takes an exchange leaves IDLE (R21) -/

theorem State.sendFrame_engine (s : State) (n : LineId) (f : Frame) : ((s.sendFrame n f).line n).engine = .quiet := by
  rw [State.sendFrame, State.modLine_line, if_pos rfl]
  rfl

theorem State.prepareRequest_engine {s : State} {n : LineId} {x : Exchange} (h : (s.line n).exchange = some x) :
    ((s.prepareRequest n).line n).engine ≠ .idle := by
  simp only [State.prepareRequest, h]
  split
  · rw [State.modLine_line, if_pos rfl]
    exact nofun
  · rw [State.sendFrame_engine]
    exact nofun

theorem State.prepareFirst_engine {s : State} {n : LineId} {x : Exchange} (h : (s.line n).exchange = some x) :
    ((s.prepareFirst n).line n).engine ≠ .idle := by
  simp only [State.prepareFirst, h]
  split
  · rw [State.sendFrame_engine]
    exact nofun
  · exact State.prepareRequest_engine h

theorem State.takeBound_engine (s : State) (n : LineId) (x : Exchange) (k : SlotId) :
    ((s.takeBound n x k).line n).engine ≠ .idle := by
  refine State.prepareFirst_engine (x := x.bind k (s.station k)) ?_
  rw [State.line_congr (State.modStation_lines _ _ _), State.modLine_line, if_pos rfl]

theorem State.takeBroadcast_engine (s : State) (n : LineId) (r : Request) :
    ((s.takeBroadcast n r).line n).engine ≠ .idle := by
  refine State.prepareFirst_engine (x := r.exchange .broadcast) ?_
  rw [State.modLine_line, if_pos rfl]

/-! ### The open work of a line -/

/-- The choices line n can still be given: its requests, its DUE entries and its follow-up entries. -/
def State.openWork (s : State) (n : LineId) : Nat :=
  (s.line n).prefetched.length + (s.line n).pollList.countP (fun id => (s.poll id).state == .due) + (s.line n).followUp.length

theorem State.openWork_le_workCount (s : State) (n : LineId) : s.openWork n ≤ (s.line n).workCount :=
  Nat.add_le_add_right (Nat.add_le_add_left List.countP_le_length _) _

/-- A change that brings line n no work: its requests, its list and the poll entries stay, and no follow-up entry joins. -/
structure BringsNoWork (n : LineId) (s t : State) : Prop where
  prefetched : (t.line n).prefetched = (s.line n).prefetched
  list : (t.line n).pollList = (s.line n).pollList
  followUp : (t.line n).followUp.length ≤ (s.line n).followUp.length
  polls : t.polls = s.polls

namespace BringsNoWork

variable {n : LineId} {s t u : State}

theorem of_frame (lines : t.lines = s.lines) (polls : t.polls = s.polls) : BringsNoWork n s t := by
  have line := State.line_congr lines n
  exact ⟨by rw [line], by rw [line], by rw [line], polls⟩

theorem refl (s : State) : BringsNoWork n s s := .of_frame rfl rfl

theorem trans (h : BringsNoWork n s t) (k : BringsNoWork n t u) : BringsNoWork n s u :=
  ⟨k.prefetched.trans h.prefetched, k.list.trans h.list, k.followUp.trans h.followUp, k.polls.trans h.polls⟩

/-- A change of any one line that keeps its requests and its list and adds no follow-up entry. -/
theorem modLine (m : LineId) {f : Line → Line} (prefetched : ∀ l, (f l).prefetched = l.prefetched)
    (list : ∀ l, (f l).pollList = l.pollList) (followUp : ∀ l, (f l).followUp.length ≤ l.followUp.length) :
    BringsNoWork n s (s.modLine m f) := by
  by_cases h : m = n
  · have line : (s.modLine m f).line n = f (s.line n) := by rw [State.modLine_line, if_pos h]
    exact ⟨by rw [line, prefetched], by rw [line, list], by rw [line]; exact followUp _, rfl⟩
  · have line : (s.modLine m f).line n = s.line n := by rw [State.modLine_line, if_neg h]
    exact ⟨by rw [line], by rw [line], by rw [line], rfl⟩

theorem openWork_le (h : BringsNoWork n s t) : t.openWork n ≤ s.openWork n := by
  unfold State.openWork
  simp only [h.prefetched, h.list, State.poll_congr h.polls]
  exact Nat.add_le_add_left h.followUp _

end BringsNoWork

/-! ### The operations of a dispatch that leave the engine IDLE bring no work -/

theorem State.tryClaim_bringsNoWork {s t : State} {k : Fin 7} {c : Completion} (h : s.tryClaim k c = some t) (n : LineId) :
    BringsNoWork n s t := by
  obtain ⟨-, -, rfl⟩ := State.tryClaim_some h
  exact .of_frame rfl rfl

theorem State.claimOrWait_bringsNoWork (s : State) (n : LineId) (c : Completion) : BringsNoWork n s (s.claimOrWait n c) := by
  unfold State.claimOrWait
  split
  · next h => exact State.tryClaim_bringsNoWork h n
  · exact .modLine n (fun _ => rfl) (fun _ => rfl) (fun _ => le_rfl)

theorem State.adminClaim_bringsNoWork (s : State) (n : LineId) (c : Completion) : BringsNoWork n s (s.adminClaim c) := by
  unfold State.adminClaim
  split
  · exact .of_frame rfl rfl
  split
  · next h => exact (State.tryClaim_bringsNoWork h n).trans (.of_frame rfl rfl)
  · exact .of_frame rfl rfl

theorem State.returnFor_bringsNoWork (s : State) (n : LineId) (f : FollowUp) : BringsNoWork n s (s.returnFor f) := by
  obtain ⟨lines, -, -, polls, -, -⟩ := s.returnFor_frame f
  exact .of_frame lines polls

theorem State.dropFollowUps_bringsNoWork (s : State) (n m : LineId) (gone : FollowUp → Bool) :
    BringsNoWork n s (s.dropFollowUps m gone) := by
  have returned (fs : List FollowUp) : ∀ t : State, BringsNoWork n t (fs.foldl State.returnFor t) := by
    induction fs with
    | nil => exact .refl
    | cons f fs ih => exact fun t => (t.returnFor_bringsNoWork n f).trans (ih _)
  exact (BringsNoWork.modLine m (f := fun l => { l with followUp := l.followUp.filter fun f => !gone f }) (fun _ => rfl) (fun _ => rfl)
    fun _ => List.length_filter_le _ _).trans (returned _ _)

theorem AdminWait.apply_bringsNoWork (w : AdminWait) (s : State) (n : LineId) : BringsNoWork n s (w.apply s) := by
  cases w with
  | stopLine => exact .refl s
  | holdStation k => exact (s.dropFollowUps_bringsNoWork n _ _).trans (.of_frame rfl rfl)
  | removeStation k => exact (s.dropFollowUps_bringsNoWork n _ _).trans (.of_frame rfl rfl)
  | deletePoll => exact .refl s
  | setCapture g => exact .of_frame rfl rfl

theorem State.deferredApply_bringsNoWork (s : State) (n : LineId) : BringsNoWork n s s.deferredApply := by
  unfold State.deferredApply
  split
  · split
    · exact (AdminWait.apply_bringsNoWork _ s n).trans (State.adminClaim_bringsNoWork _ n _)
    · exact .refl s
  · exact .refl s

/-! ### Every dispatch uses work up or ends the choices (R116) -/

theorem State.dispatchRequest_bringsNoWork (s : State) (n : LineId) (r : Request) :
    (s.dispatchRequest n r).mayChoose n = false ∨ BringsNoWork n s (s.dispatchRequest n r) := by
  have taken (t : State) (x : Exchange) (k : SlotId) := State.mayChoose_of_engine (t.takeBound_engine n x k)
  unfold State.dispatchRequest
  dsimp only
  split
  · exact .inl (State.mayChoose_of_engine (State.takeBroadcast_engine _ n r))
  split
  · exact .inr (s.claimOrWait_bringsNoWork n _)
  split
  · exact .inr (s.claimOrWait_bringsNoWork n _)
  · split
    · exact .inl (taken _ _ _)
    · exact .inr (s.claimOrWait_bringsNoWork n _)
  all_goals exact .inl (taken _ _ _)

theorem State.dispatchFollowUp_bringsNoWork (s : State) (n : LineId) (f : FollowUp) :
    (s.dispatchFollowUp n f).mayChoose n = false ∨ BringsNoWork n s (s.dispatchFollowUp n f) := by
  unfold State.dispatchFollowUp
  extract_lets state passes
  split
  · exact .inl (State.mayChoose_of_engine (s.takeBound_engine n _ _))
  · exact .inr ((s.returnFor_bringsNoWork n f).trans (State.deferredApply_bringsNoWork _ n))

/-- A predicate that lets an element of the list fall and gains none counts fewer. -/
theorem countP_lt_countP {α : Type} {p q : α → Bool} {l : List α} {a : α} (le : ∀ x, q x = true → p x = true) (hmem : a ∈ l)
    (hp : p a = true) (hq : q a = false) : l.countP q < l.countP p := by
  obtain ⟨before, after, rfl⟩ := List.append_of_mem hmem
  have hbefore := List.countP_mono_left (l := before) fun x _ => le x
  have hafter := List.countP_mono_left (l := after) fun x _ => le x
  simp only [List.countP_append, List.countP_cons, hp, hq, if_true, Bool.false_eq_true, if_false]
  omega

/-- A DUE entry of the list that stops being DUE is one choice fewer. -/
theorem State.openWork_modPoll_lt {s : State} {n : LineId} {id : PollId} {f : Poll → Poll} (hmem : id ∈ (s.line n).pollList)
    (hdue : (s.poll id).state = .due) (hf : (f (s.poll id)).state ≠ .due) : (s.modPoll id f).openWork n < s.openWork n := by
  have poll (j : PollId) : (s.modPoll id f).poll j = if id = j then f (s.poll j) else s.poll j := s.modPoll_poll id j f
  have fewer : (s.line n).pollList.countP (fun j => ((s.modPoll id f).poll j).state == .due) <
      (s.line n).pollList.countP (fun j => (s.poll j).state == .due) := by
    refine countP_lt_countP (fun j hj => ?_) hmem (beq_iff_eq.mpr hdue) ?_
    · rw [poll] at hj
      split at hj
      · next e => exact absurd (beq_iff_eq.mp (e ▸ hj)) hf
      · exact hj
    · rw [poll, if_pos rfl]
      exact beq_eq_false_iff_ne.mpr hf
  unfold State.openWork
  rw [State.line_congr (State.modPoll_lines s id f)]
  omega

theorem State.dispatchPoll_progress {s : State} {n : LineId} {id : PollId} (hmem : id ∈ (s.line n).pollList)
    (hdue : (s.poll id).state = .due) :
    (s.dispatchPoll n id).mayChoose n = false ∨ (s.dispatchPoll n id).openWork n < s.openWork n := by
  unfold State.dispatchPoll
  dsimp only
  split
  · exact .inl (State.mayChoose_of_engine (State.takeBound_engine _ n _ _))
  · have skipped := State.openWork_modPoll_lt (f := fun q =>
      { q with state := .idle, skipped := satSucc Config.counterMax q.skipped }) hmem hdue nofun
    split
    · exact .inr ((State.claimOrWait_bringsNoWork _ n _).openWork_le.trans_lt skipped)
    · exact .inr skipped

theorem State.openWork_removeRequest_lt {s : State} {n : LineId} {r : Request} (hmem : r ∈ (s.line n).prefetched) :
    (s.modLine n fun l => l.removeRequest r).openWork n < s.openWork n := by
  have shorter := List.length_eraseP_of_mem (p := fun q : Request => q.urgent == r.urgent) hmem (beq_self_eq_true _)
  have present := List.length_pos_of_mem hmem
  simp only [State.openWork, State.modLine_line, if_true, Line.removeRequest, shorter,
    State.poll_congr (State.modLine_polls s n _)]
  omega

theorem State.openWork_dropHead_lt {s : State} {n : LineId} {f : FollowUp} (hhead : (s.line n).followUp.head? = some f) :
    (s.modLine n fun l => { l with followUp := l.followUp.drop 1 }).openWork n < s.openWork n := by
  have present := List.length_pos_of_mem (List.mem_of_head? hhead)
  simp only [State.openWork, State.modLine_line, if_true, List.length_drop, State.poll_congr (State.modLine_polls s n _)]
  omega

/-- A chosen piece of work, dispatched, takes the engine out of IDLE or leaves less to choose from. -/
theorem State.dispatch_progress {s : State} {n : LineId} {w : Work} (h : s.nextWork n = some w) :
    (s.dispatch n w).mayChoose n = false ∨ (s.dispatch n w).openWork n < s.openWork n := by
  have waits := State.waits_of_nextWork h
  cases w with
  | request r =>
    exact (State.dispatchRequest_bringsNoWork _ n r).imp_right fun k => k.openWork_le.trans_lt (State.openWork_removeRequest_lt waits)
  | poll id =>
    obtain ⟨hmem, hdue⟩ := waits
    exact State.dispatchPoll_progress hmem hdue
  | followUp f =>
    exact (State.dispatchFollowUp_bringsNoWork _ n f).imp_right fun k => k.openWork_le.trans_lt (State.openWork_dropHead_lt waits)

/-! ### The choices of R116 -/

theorem State.chooseLoop_of_not_mayChoose {s : State} {n : LineId} (h : s.mayChoose n = false) (fuel : Nat) :
    s.chooseLoop n fuel = s := by
  cases fuel with
  | zero => rfl
  | succ fuel => simp [State.chooseLoop, h]

theorem State.chooseLoop_of_no_work {s : State} {n : LineId} (h : s.nextWork n = none) (fuel : Nat) : s.chooseLoop n fuel = s := by
  cases fuel with
  | zero => rfl
  | succ fuel => simp [State.chooseLoop, h]

theorem State.chooseLoop_of_work {s : State} {n : LineId} {w : Work} (may : s.mayChoose n = true) (h : s.nextWork n = some w)
    (fuel : Nat) : s.chooseLoop n (fuel + 1) = (s.dispatch n w).chooseLoop n fuel := by
  simp [State.chooseLoop, may, h]

/-- Fuel beyond the open work changes nothing. -/
theorem State.chooseLoop_fuel {n : LineId} (a b : Nat) (s : State) (ha : s.openWork n < a) (hb : s.openWork n < b) :
    s.chooseLoop n a = s.chooseLoop n b := by
  induction a generalizing b s with
  | zero => exact absurd ha (Nat.not_lt_zero _)
  | succ a ih =>
    obtain ⟨b, rfl⟩ : ∃ c, b = c + 1 := Nat.exists_eq_succ_of_ne_zero (Nat.ne_zero_of_lt hb)
    cases may : s.mayChoose n with
    | false => rw [chooseLoop_of_not_mayChoose may, chooseLoop_of_not_mayChoose may]
    | true =>
      cases work : s.nextWork n with
      | none => rw [chooseLoop_of_no_work work, chooseLoop_of_no_work work]
      | some w =>
        rw [chooseLoop_of_work may work, chooseLoop_of_work may work]
        obtain ended | less := State.dispatch_progress work
        · rw [chooseLoop_of_not_mayChoose ended, chooseLoop_of_not_mayChoose ended]
        · exact ih b _ (by omega) (by omega)

/-- The arbiter chooses again from the state its choice has reached (R116). -/
theorem State.arbiterChoice_of_work {s : State} {n : LineId} {w : Work} (may : s.mayChoose n = true) (h : s.nextWork n = some w) :
    s.arbiterChoice n = (s.dispatch n w).arbiterChoice n := by
  have enough := s.openWork_le_workCount n
  have enough' := (s.dispatch n w).openWork_le_workCount n
  rw [State.arbiterChoice, State.arbiterChoice, chooseLoop_of_work may h]
  obtain ended | less := State.dispatch_progress h
  · rw [chooseLoop_of_not_mayChoose ended, chooseLoop_of_not_mayChoose ended]
  · exact State.chooseLoop_fuel _ _ _ (by omega) (by omega)

/-- Settles O59: the choice is the table of R114, and the open work bounds the choices that follow it. -/
theorem arbiterChoosesInOrder : Obligations.ArbiterChoosesInOrder := by
  intro s n
  refine ⟨s.nextWork_eq_table n, fun may => ?_, fun noWork => State.chooseLoop_of_no_work noWork _, fun w may work => ?_⟩
  · exact State.chooseLoop_of_not_mayChoose (Bool.eq_false_iff.mpr fun h => may ((s.mayChoose_iff n).mp h)) _
  · exact State.arbiterChoice_of_work ((s.mayChoose_iff n).mpr may) work

end Sys2Proof.Machine
end

section
/-! PROOFS. A write of COMPLETION RELEASE (R153): when it is heard, which index is valid, and what it does. -/

namespace Sys2Proof.Machine

theorem DeviceState.working_eq_true_iff (d : DeviceState) : d.working = true ↔ d = .running ∨ d = .halting ∨ d = .halted := by
  cases d <;> decide

theorem DeviceState.working_eq_false_iff (d : DeviceState) :
    d.working = false ↔ d = .unconfigured ∨ d = .loading ∨ d = .faulted := by
  cases d <;> decide

/-- With no reset waiting a register write is acted on at once (R174). -/
theorem State.access_of_no_reset {s : State} (h : s.hbi.resetting = none) (c : Instr) (act : State → State) :
    s.access c act = act s := by
  simp [State.access, h]

theorem exec_completionRelease {s : State} (h : s.hbi.resetting = none) (value : Word) :
    exec (.completionRelease value) s = .next (s.writeCompletionRelease value) :=
  congrArg Host.Outcome.next (State.access_of_no_reset h _ _)

theorem State.writeCompletionRelease_of_not_working {s : State} (h : s.hbi.device.working = false) (value : Word) :
    s.writeCompletionRelease value = s := by
  simp [State.writeCompletionRelease, h]

theorem State.writeCompletionRelease_of_valid {s : State} {value : Word} (hdevice : s.hbi.device.working = true)
    (hvalid : s.writer.releaseValid (value.extractLsb' 0 16) = true) :
    s.writeCompletionRelease value = s.modWriter fun w => { w with released := value.extractLsb' 0 16 } := by
  simp [State.writeCompletionRelease, hdevice, hvalid]

theorem State.writeCompletionRelease_of_invalid {s : State} {value : Word} (hdevice : s.hbi.device.working = true)
    (hinvalid : s.writer.releaseValid (value.extractLsb' 0 16) = false) :
    s.writeCompletionRelease value = s.ringFault .badRelease 5#4 := by
  simp [State.writeCompletionRelease, hdevice, hinvalid]

/-- The low 16 bits of a register value as a number (R200). -/
theorem extractLsb'_half (value : Word) : value.extractLsb' 0 16 = BitVec.ofNat 16 (value.toNat % 65536) := by
  apply BitVec.eq_of_toNat_eq
  simp

/-- The way from one index to another, going round at 65536 (R139). -/
theorem toNat_index_sub (a b : Half) : (a - b).toNat = (a.toNat + 65536 - b.toNat) % 65536 := by
  have := b.isLt
  rw [BitVec.toNat_sub]
  omega

theorem CompletionWriter.releaseValid_iff (w : CompletionWriter) (v : Half) :
    w.releaseValid v = true ↔
      (v.toNat + 65536 - w.released.toNat) % 65536 ≤ (w.producer.toNat + 65536 - w.released.toNat) % 65536 := by
  rw [CompletionWriter.releaseValid, decide_eq_true_iff, toNat_index_sub, toNat_index_sub]

/-- Settles O17: the device state says whether the write is heard, the distances from the released index whether it is valid. -/
theorem completionReleaseIsValidated : Obligations.CompletionReleaseIsValidated := by
  intro s value hreset v r w
  have hindex : value.extractLsb' 0 16 = BitVec.ofNat 16 v := extractLsb'_half value
  have hvalid : s.writer.releaseValid (value.extractLsb' 0 16) = true ↔
      (v + 65536 - r) % 65536 ≤ (w + 65536 - r) % 65536 := by
    rw [CompletionWriter.releaseValid_iff, BitVec.extractLsb'_toNat, Nat.shiftRight_zero]
  rw [exec_completionRelease hreset]
  refine ⟨fun hdevice => ?ignored, fun hdevice => ⟨fun hwithin => ?valid, fun hpast => ?invalid⟩⟩
  case ignored =>
    rw [State.writeCompletionRelease_of_not_working ((DeviceState.working_eq_false_iff _).mpr hdevice)]
  case valid =>
    rw [State.writeCompletionRelease_of_valid ((DeviceState.working_eq_true_iff _).mpr hdevice) (hvalid.mpr hwithin), hindex]
  case invalid =>
    have hinvalid := Bool.eq_false_iff.mpr fun h => hpast.not_ge (hvalid.mp h)
    rw [State.writeCompletionRelease_of_invalid ((DeviceState.working_eq_true_iff _).mpr hdevice) hinvalid]

end Sys2Proof.Machine
end

section
/-! PROOFS. The checks of a request record (section 8.2): the fields read from its bytes (R192), each of the eleven checks of R145 against
those bytes, the first one that fails, and the claim for a MALFORMED record at the end of its fetch (R146). -/

namespace Sys2Proof.Machine

/-! ### The first check that fails -/

theorem firstTrue_eq_findIdx? (bs : List Bool) (k : Nat) : firstTrue bs k = (bs.findIdx? id).map (· + k) := by
  induction bs generalizing k with
  | nil => rfl
  | cons b bs ih => cases b <;> simp [firstTrue, List.findIdx?_cons, ih, Function.comp_def, Nat.add_assoc, Nat.add_comm 1]

/-! ### Bytes and fields of a record (R192) -/

theorem getD_eq_recByte (data : Vector Byte 32) {k : Nat} (h : k < 32) : data.toList.getD k 0#8 = recByte data ⟨k, h⟩ := by
  simp [recByte, List.getD_eq_getElem?_getD, h]

theorem getLsbD_eq_true_iff (b : Byte) (i : Nat) : b.getLsbD i = true ↔ b.toNat / 2 ^ i % 2 = 1 := by
  rw [← BitVec.testBit_toNat, Nat.testBit_eq_decide_div_mod_eq, decide_eq_true_iff]

theorem ofLe16_toNat (b0 b1 : Byte) : (ofLe16 b0 b1).toNat = b0.toNat + 256 * b1.toNat := by
  have := b0.isLt
  rw [ofLe16, BitVec.toNat_append, ← Nat.shiftLeft_add_eq_or_of_lt this, Nat.shiftLeft_eq]
  omega

theorem ofLe32_toNat_mod_four (b0 b1 b2 b3 : Byte) : (ofLe32 b0 b1 b2 b3).toNat % 4 = b0.toNat % 4 := by
  have := b0.isLt
  rw [ofLe32, BitVec.toNat_append, ← Nat.shiftLeft_add_eq_or_of_lt this, Nat.shiftLeft_eq]
  omega

/-- A part of a list holds an element of a kind when one of the part's positions does. -/
theorem any_take_drop_iff {α : Type} (l : List α) (d : α) (p : α → Bool) {a n : Nat} (h : a + n ≤ l.length) :
    ((l.drop a).take n).any p = true ↔ ∃ j, a ≤ j ∧ j < a + n ∧ p (l.getD j d) = true := by
  simp only [List.any_eq_true, List.mem_iff_getElem]
  constructor
  · rintro ⟨x, ⟨i, hi, rfl⟩, hx⟩
    simp only [List.length_take, List.length_drop] at hi
    refine ⟨a + i, by omega, by omega, ?_⟩
    rw [List.getD_eq_getElem _ _ (by omega)]
    simpa using hx
  · rintro ⟨j, ha, hj, hp⟩
    refine ⟨_, ⟨j - a, by simp only [List.length_take, List.length_drop]; omega, rfl⟩, ?_⟩
    rw [List.getD_eq_getElem _ _ (by omega)] at hp
    simpa [Nat.add_sub_cancel' ha] using hp

theorem Request.payloadAddress_of_cons {r : Request} {b0 b1 b2 b3 : Byte} {rest : List Byte}
    (h : r.payloadArea = b0 :: b1 :: b2 :: b3 :: rest) : r.payloadAddress = ofLe32 b0 b1 b2 b3 := by
  simp [Request.payloadAddress, h]

section Fields

variable (data : Vector Byte 32)

/-- Bit i of the flags byte. -/
theorem recByte_flag_iff (i : Nat) :
    (recByte data 4).getLsbD i = true ↔ (data.toList.getD 4 0#8).toNat / 2 ^ i % 2 = 1 := by
  rw [getD_eq_recByte data (by decide)]
  exact getLsbD_eq_true_iff _ i

/-- Bit 7 of the address byte is its reserved bit. -/
theorem recByte_addressReserved_iff : (recByte data 5).getLsbD 7 = true ↔ 128 ≤ (data.toList.getD 5 0#8).toNat := by
  have hlt := (data.toList.getD 5 0#8).isLt
  rw [show recByte data 5 = data.toList.getD 5 0#8 from (getD_eq_recByte data (by decide)).symm, getLsbD_eq_true_iff]
  omega

theorem decodeRequest_broadcast_iff :
    (decodeRequest data).broadcast = true ↔ (data.toList.getD 4 0#8).toNat / 2 ^ 1 % 2 = 1 := recByte_flag_iff data 1

theorem decodeRequest_bulkRead_iff :
    (decodeRequest data).bulkRead = true ↔ (data.toList.getD 4 0#8).toNat / 2 ^ 2 % 2 = 1 := recByte_flag_iff data 2

theorem decodeRequest_bulkWrite_iff :
    (decodeRequest data).bulkWrite = true ↔ (data.toList.getD 4 0#8).toNat / 2 ^ 3 % 2 = 1 := recByte_flag_iff data 3

theorem decodeRequest_inlinePayload_iff :
    (decodeRequest data).inlinePayload = true ↔ (data.toList.getD 4 0#8).toNat / 2 ^ 4 % 2 = 1 := recByte_flag_iff data 4

theorem decodeRequest_address_eq_iff (a : BitVec 7) :
    (decodeRequest data).address = a ↔ (data.toList.getD 5 0#8).toNat % 128 = a.toNat := by
  rw [getD_eq_recByte data (by decide), ← BitVec.toNat_inj, decodeRequest, BitVec.toNat_setWidth]
  rfl

theorem decodeRequest_function : (decodeRequest data).function = data.toList.getD 6 0#8 :=
  (getD_eq_recByte data (by decide)).symm

theorem decodeRequest_maxSegments : (decodeRequest data).maxSegments = (data.toList.getD 7 0#8).toNat := by
  rw [getD_eq_recByte data (by decide)]
  rfl

theorem decodeRequest_payloadLength :
    (decodeRequest data).payloadLength = (data.toList.getD 8 0#8).toNat + 256 * (data.toList.getD 9 0#8).toNat := by
  rw [getD_eq_recByte data (by decide), getD_eq_recByte data (by decide)]
  exact ofLe16_toNat _ _

theorem decodeRequest_responseCapacity :
    (decodeRequest data).responseCapacity = (data.toList.getD 10 0#8).toNat + 256 * (data.toList.getD 11 0#8).toNat := by
  rw [getD_eq_recByte data (by decide), getD_eq_recByte data (by decide)]
  exact ofLe16_toNat _ _

theorem decodeRequest_payloadAddress :
    (decodeRequest data).payloadAddress = ofLe32 (recByte data 12) (recByte data 13) (recByte data 14) (recByte data 15) := by
  refine Request.payloadAddress_of_cons (rest := (data.toList.drop 16).take 12) ?_
  simp [decodeRequest, recByte, List.drop_eq_getElem_cons]

theorem decodeRequest_payloadAddress_mod_four :
    (decodeRequest data).payloadAddress.toNat % 4 = (data.toList.getD 12 0#8).toNat % 4 := by
  rw [decodeRequest_payloadAddress, ofLe32_toNat_mod_four, getD_eq_recByte data (by decide)]
  rfl

theorem decodeRequest_responseAddress_mod_four :
    (decodeRequest data).responseAddress.toNat % 4 = (data.toList.getD 28 0#8).toNat % 4 := by
  rw [getD_eq_recByte data (by decide)]
  exact ofLe32_toNat_mod_four _ _ _ _

theorem payloadAreaReserved_iff :
    ((data.toList.drop 16).take 12).any (· != 0#8) = true ↔ ∃ j, 16 ≤ j ∧ j < 28 ∧ data.toList.getD j 0#8 ≠ 0#8 := by
  rw [any_take_drop_iff data.toList 0#8 _ (by simp)]
  simp only [bne_iff_ne]

end Fields

/-! ### The eleven checks (R145) -/

theorem not_hostFunction_iff (f : Byte) : ¬hostFunction f = true ↔ f.toNat = 0 ∨ 0x6F < f.toNat := by
  rw [hostFunction, Bool.and_eq_true, decide_eq_true_iff, decide_eq_true_iff]
  omega

/-- Position i of the list holds check i + 1; case by case, in the order of the numbers, through the fields that check reads. -/
theorem requestChecks_getElem_iff (data : Vector Byte 32) (i : Nat) (h : i < (requestChecks data).length) :
    (requestChecks data)[i] = true ↔ RequestFails data (i + 1) := by
  replace h : i < 11 := h
  simp only [requestChecks, requestReservedSet]
  interval_cases i
  all_goals simp only [List.getElem_cons_succ, List.getElem_cons_zero, Bool.or_eq_true, Bool.and_eq_true, Bool.not_iff_not,
    decide_eq_true_iff, bne_iff_ne, beq_iff_eq, or_assoc, and_assoc]
  · rw [recByte_flag_iff, recByte_flag_iff, recByte_flag_iff, recByte_addressReserved_iff, payloadAreaReserved_iff]
    rfl
  · rw [not_hostFunction_iff, decodeRequest_function]
    rfl
  · simp only [decodeRequest_address_eq_iff, decodeRequest_broadcast_iff, ne_eq]
    rfl
  · rw [decodeRequest_broadcast_iff, decodeRequest_responseCapacity, decodeRequest_bulkRead_iff, decodeRequest_bulkWrite_iff]
    rfl
  · rw [decodeRequest_bulkRead_iff, decodeRequest_bulkWrite_iff]
    rfl
  · rw [decodeRequest_inlinePayload_iff, decodeRequest_payloadLength]
    rfl
  · rw [decodeRequest_payloadLength, decodeRequest_bulkWrite_iff]
    rfl
  · rw [decodeRequest_maxSegments]
    rfl
  · rw [decodeRequest_responseCapacity]
    rfl
  · rw [decodeRequest_inlinePayload_iff, decodeRequest_payloadLength, decodeRequest_payloadAddress_mod_four,
      decodeRequest_responseCapacity, decodeRequest_responseAddress_mod_four]
    rfl
  · rw [decodeRequest_inlinePayload_iff, decodeRequest_bulkWrite_iff]
    rfl

/-- The number is one more than the position, so the earlier positions are the numbers from 1 on. -/
theorem malformedCheck_eq_some_iff (data : Vector Byte 32) (k : Nat) :
    malformedCheck data = some k ↔ 1 ≤ k ∧ k ≤ 11 ∧ RequestFails data k ∧ ∀ j, 1 ≤ j → j < k → ¬RequestFails data j := by
  have hlength : (requestChecks data).length = 11 := rfl
  rw [malformedCheck, firstTrue_eq_findIdx?, Option.map_eq_some_iff]
  simp only [List.findIdx?_eq_some_iff_getElem, id_eq, requestChecks_getElem_iff]
  constructor
  · rintro ⟨i, ⟨hi, hfails, hfirst⟩, rfl⟩
    refine ⟨by omega, by omega, hfails, fun j hone hlt => ?_⟩
    obtain ⟨j, rfl⟩ := Nat.exists_eq_add_of_le' hone
    exact hfirst j (by omega)
  · rintro ⟨hone, hle, hfails, hfirst⟩
    obtain ⟨i, rfl⟩ := Nat.exists_eq_add_of_le' hone
    exact ⟨i, ⟨by omega, hfails, fun j hlt => hfirst (j + 1) (by omega) (by omega)⟩, rfl⟩

theorem malformedCheck_eq_none_iff (data : Vector Byte 32) :
    malformedCheck data = none ↔ ∀ j, 1 ≤ j → j ≤ 11 → ¬RequestFails data j := by
  rw [malformedCheck, firstTrue_eq_findIdx?, Option.map_eq_none_iff, List.findIdx?_eq_none_iff, List.forall_mem_iff_forall_getElem]
  simp only [id_eq, Bool.eq_false_iff, ne_eq, requestChecks_getElem_iff]
  constructor
  · intro hnone j hone hle
    obtain ⟨i, rfl⟩ := Nat.exists_eq_add_of_le' hone
    exact hnone i (Nat.lt_of_succ_le hle)
  · exact fun hnone i hi => hnone (i + 1) (by omega) hi

/-! ### The end of a request ring's fetch (R146) -/

/-- With no reset waiting, the outcome of a record fetch acts (R181). -/
theorem State.fetchEnd_of_burst {s : State} {r : RingId} (hburst : s.burstOf (.ringFetch r) = true)
    (hreset : s.hbi.resetting = none) (error : Bool) (data : Vector Byte 32) :
    s.fetchEnd error data = s.clearBurst.fetched r error data := by
  obtain ⟨b, hb, howner⟩ : ∃ b, s.hbi.burst = some b ∧ b.owner = .ringFetch r := by
    simpa [State.burstOf, Option.any_eq_true] using hburst
  simp [State.fetchEnd, hb, howner, State.burstEnd, hburst, hreset]

theorem State.requestMayTake_iff (s : State) (n : LineId) :
    s.requestMayTake n = true ↔ s.hbi.device = .running ∧ (s.line n).engine ≠ .off ∧ (s.line n).stopping = none ∧
      s.ringUnit.fetchVoid = false ∧ (s.line n).prefetched.length < Config.prefetchDepth := by
  simp [State.requestMayTake, Line.running, and_assoc]

@[simp] theorem State.clearBurst_device (s : State) : s.clearBurst.hbi.device = s.hbi.device := rfl

theorem State.clearBurst_requestMayTake (s : State) (n : LineId) : s.clearBurst.requestMayTake n = s.requestMayTake n := rfl

/-- A request ring's record that may be taken is taken, and the requester is free again. -/
theorem State.fetched_of_mayTake {s : State} {n : LineId} (h : s.requestMayTake n = true) (data : Vector Byte 32) :
    s.fetched n.succ false data = (s.takeRequest n data).askFetch := by
  obtain ⟨hdevice, -⟩ := (s.requestMayTake_iff n).mp h
  simp [State.fetched, hdevice, Fin.succ_ne_zero, h]

/-- The claim for a MALFORMED record is granted in the event of its fetch while an entry is free (R146, R151). -/
theorem State.takeRequest_of_malformed {s : State} {data : Vector Byte 32} {k : Nat} (hcheck : malformedCheck data = some k)
    (hdevice : s.hbi.device ≠ .faulted) (hroom : s.writer.holding.length < 16) (n : LineId) :
    s.takeRequest n data = s.takeMalformed n (s.malformedCompletion n (decodeRequest data) k) := by
  have hfree : s.hasRoom = true := decide_eq_true hroom
  simp [State.takeRequest, hcheck, State.claimMalformed, hfree, hdevice]

theorem State.takeMalformed_holding (s : State) (n : LineId) (c : Completion) :
    (s.takeMalformed n c).writer.holding = s.writer.holding ++ [c] := rfl

theorem State.takeMalformed_lines (s : State) (n : LineId) (c : Completion) : (s.takeMalformed n c).lines = s.lines := rfl

/-- Settles O22: the position of the first true entry of the list of checks, and the completion of the claim it is the detail of. -/
theorem requestChecksInOrder : Obligations.RequestChecksInOrder := by
  refine ⟨fun data check => ?order, ?claim⟩
  case order =>
    cases check with
    | some k => exact malformedCheck_eq_some_iff data k
    | none => exact malformedCheck_eq_none_iff data
  case claim =>
    intro s n data k hburst hreset hdevice hengine hstopping hvoid hprefetch hroom hcheck
    let c := s.clearBurst.malformedCompletion n (decodeRequest data) k
    have hmay : s.clearBurst.requestMayTake n = true :=
      (s.clearBurst_requestMayTake n).trans ((s.requestMayTake_iff n).mpr ⟨hdevice, hengine, hstopping, hvoid, hprefetch⟩)
    have htake : s.clearBurst.takeRequest n data = s.clearBurst.takeMalformed n c :=
      State.takeRequest_of_malformed (s := s.clearBurst) hcheck (by rw [State.clearBurst_device, hdevice]; decide) hroom n
    have hend : s.fetchEnd false data = (s.clearBurst.takeMalformed n c).askFetch := by
      rw [State.fetchEnd_of_burst hburst hreset, State.fetched_of_mayTake hmay, htake]
    exact ⟨_, c, congrArg Host.Outcome.next hend, State.takeMalformed_holding _ n c, rfl, rfl,
      State.line_congr (State.takeMalformed_lines _ n c) n⟩

end Sys2Proof.Machine
end

section
/-! PROOFS. The interrupt output (R183): when it is asserted, what the two writes that steer it do, and that a reset releases it. -/

namespace Sys2Proof.Machine

/-- Two registers have a bit set in common. -/
theorem and_ne_zero_iff_exists {w : Nat} (a b : BitVec w) :
    a &&& b ≠ 0#w ↔ ∃ i : Fin w, a[i] = true ∧ b[i] = true := by
  constructor
  · contrapose!
    intro hapart
    refine BitVec.eq_of_getElem_eq fun i hi => ?_
    simpa using hapart ⟨i, hi⟩
  · rintro ⟨i, ha, hb⟩ hzero
    have hbit : (a &&& b)[i] = true := by simpa using ⟨ha, hb⟩
    simp [hzero] at hbit

theorem State.interrupt_iff (s : State) :
    s.interrupt = true ↔ s.hbi.irqEnable = true ∧ ∃ i : Fin 7, s.hbi.attention[i] = true ∧ s.hbi.mask[i] = true := by
  rw [State.interrupt, Bool.and_eq_true, bne_iff_ne, and_ne_zero_iff_exists]

theorem State.interrupt_of_not_irqEnable {s : State} (h : s.hbi.irqEnable = false) : s.interrupt = false := by
  simp [State.interrupt, h]

theorem exec_attentionMask {s : State} (h : s.hbi.resetting = none) (value : Word) :
    exec (.attentionMask value) s = .next (s.writeMask value) :=
  congrArg Host.Outcome.next (State.access_of_no_reset h _ _)

theorem exec_irqEnable {s : State} (h : s.hbi.resetting = none) (irq : Bool) :
    exec (.irqEnable irq) s = .next (s.writeIrqEnable irq) :=
  congrArg Host.Outcome.next (State.access_of_no_reset h _ _)

/-- The mask takes the low seven bits of the value written (R200). -/
theorem State.writeMask_mask_getElem (s : State) (value : Word) (i : Fin 7) : (s.writeMask value).hbi.mask[i] = value[i.val] :=
  (BitVec.getElem_setWidth ..).trans (BitVec.getLsbD_eq_getElem _)

theorem State.takeReset_irqEnable (s : State) (cause : ResetCause) : (s.takeReset cause).hbi.irqEnable = false := rfl

/-- Settles O13: the output's condition bit by bit, the two writes as their own operations, and IRQ_ENABLE zero after a reset. -/
theorem interruptFollowsMaskAndEnable : Obligations.InterruptFollowsMaskAndEnable := by
  refine ⟨State.interrupt_iff, fun s value hreset => ?mask, fun s irq hreset => ?irqEnable, ?powerOn, fun s cause => ?reset⟩
  case mask => exact ⟨s.writeMask value, exec_attentionMask hreset value, s.writeMask_mask_getElem value, rfl⟩
  case irqEnable => exact exec_irqEnable hreset irq
  case powerOn => exact State.interrupt_of_not_irqEnable rfl
  case reset => exact State.interrupt_of_not_irqEnable (s.takeReset_irqEnable cause)

end Sys2Proof.Machine
end

section
/-! PROOFS. The completion record (R194): its sixteen bytes as the places of its fields, the codes it carries (R149, R150), and that its
bytes determine the completion and the phase. -/

namespace Sys2Proof.Machine

/-! ### The codes -/

/-- The codes of a listed type are apart when the codes of the list are. -/
theorem injective_of_nodup_map {α β : Type} {f : α → β} {l : List α} (hall : ∀ a, a ∈ l) (hcodes : (l.map f).Nodup) :
    Function.Injective f :=
  fun a b => List.inj_on_of_nodup_map hcodes (hall a) (hall b)

/-- The statuses in the order of R150. -/
def Status.all : List Status :=
  [.ok, .okSent, .timeout, .checkError, .frameError, .refused, .busyLimit, .stationOffline, .stationHeld, .noStation, .truncated,
   .busError, .aborted, .contention, .malformed, .segmentLimit, .overrun, .done, .badCommand, .badArgument, .noSpace, .inUse, .notFound,
   .wrongState, .duplicateAddress, .adminBusError, .stationNotice]

theorem Status.mem_all (status : Status) : status ∈ Status.all := by
  cases status <;> decide

theorem Status.all_map_code :
    Status.all.map Status.code =
      [0#8, 1, 2, 3, 4, 5, 6, 7, 8, 9, 10, 11, 12, 13, 14, 15, 16, 32, 33, 34, 35, 36, 37, 38, 39, 40, 48] := rfl

theorem Status.code_injective : Function.Injective Status.code :=
  injective_of_nodup_map Status.mem_all (by rw [Status.all_map_code]; decide)

/-- The kinds in the order of R149. -/
def CompletionKind.all : List CompletionKind := [.request, .admin, .poll, .notice]

theorem CompletionKind.mem_all (kind : CompletionKind) : kind ∈ CompletionKind.all := by
  cases kind <;> decide

theorem CompletionKind.all_map_code : CompletionKind.all.map CompletionKind.code = [0#2, 1, 2, 3] := rfl

theorem CompletionKind.code_injective : Function.Injective CompletionKind.code :=
  injective_of_nodup_map CompletionKind.mem_all (by rw [CompletionKind.all_map_code]; decide)

/-! ### The bytes of a value, low byte first -/

/-- Byte k of a record, as a number. -/
def byteAt (bytes : List Byte) (k : Nat) : Nat := (bytes.getD k 0#8).toNat

theorem byteAt_le16 (h : Half) : byteAt (le16 h) 0 + 256 * byteAt (le16 h) 1 = h.toNat := by
  simp only [byteAt, le16, List.getD_cons_zero, List.getD_cons_succ, BitVec.extractLsb'_toNat]
  omega

theorem byteAt_le32 (w : Word) :
    byteAt (le32 w) 0 + 256 * byteAt (le32 w) 1 + 65536 * byteAt (le32 w) 2 + 16777216 * byteAt (le32 w) 3 = w.toNat := by
  simp only [byteAt, le32, List.getD_cons_zero, List.getD_cons_succ, BitVec.extractLsb'_toNat]
  omega

theorem byteAt_le16_halfOf {k : Nat} (h : k < 65536) :
    byteAt (le16 (halfOf k)) 0 + 256 * byteAt (le16 (halfOf k)) 1 = k :=
  (byteAt_le16 _).trans (Nat.mod_eq_of_lt h)

/-! ### The record -/

/-- Kind, station state and phase share byte 6 without overlap. -/
theorem toNat_flagsByte (kind : BitVec 2) (state : BitVec 3) (phase : Bool) :
    (BitVec.ofNat 8 (kind.toNat + 4 * state.toNat + 128 * bitOf phase)).toNat =
      kind.toNat + 4 * state.toNat + (if phase then 128 else 0) := by
  have hphase : 128 * bitOf phase = if phase then 128 else 0 := by cases phase <;> rfl
  have hphase_le : (if phase then 128 else 0) ≤ 128 := by cases phase <;> decide
  have hkind := kind.isLt
  have hstate := state.isLt
  rw [BitVec.toNat_ofNat, hphase, Nat.mod_eq_of_lt (by omega)]

namespace Completion

/-- The widths of R149 that the counts of a completion keep within. -/
structure Fits (c : Completion) : Prop where
  attempts : c.attempts < 16
  segments : c.segments < 128
  delivered : c.delivered < 65536
  residue : c.residue < 65536

/-- The table of R194: the place of each field in the record's bytes. -/
structure LaidOut (c : Completion) (phase : Bool) (bytes : List Byte) : Prop where
  tag : byteAt bytes 0 + 256 * byteAt bytes 1 + 65536 * byteAt bytes 2 + 16777216 * byteAt bytes 3 = c.tag.toNat
  status : byteAt bytes 4 = c.status.code.toNat
  detail : byteAt bytes 5 = c.detail.toNat
  flags : byteAt bytes 6 = c.kind.code.toNat + 4 * c.stationState.toNat + (if phase then 128 else 0)
  origin : byteAt bytes 7 = c.origin.toNat
  counts : byteAt bytes 8 + 256 * byteAt bytes 9 = c.attempts + 16 * c.segments
  delivered : byteAt bytes 10 + 256 * byteAt bytes 11 = c.delivered
  residue : byteAt bytes 12 + 256 * byteAt bytes 13 = c.residue
  stamp : byteAt bytes 14 + 256 * byteAt bytes 15 = c.stamp.toNat

variable {c d : Completion} {p q : Bool} {bytes : List Byte}

theorem bytes_length (c : Completion) (phase : Bool) : (c.bytes phase).length = 16 := rfl

theorem Fits.laidOut_bytes (h : c.Fits) (phase : Bool) : c.LaidOut phase (c.bytes phase) where
  tag := byteAt_le32 c.tag
  status := rfl
  detail := rfl
  flags := toNat_flagsByte c.kind.code c.stationState phase
  origin := rfl
  counts :=
    have hattempts := h.attempts
    have hsegments := h.segments
    byteAt_le16_halfOf (by omega)
  delivered := byteAt_le16_halfOf h.delivered
  residue := byteAt_le16_halfOf h.residue
  stamp := byteAt_le16 c.stamp

/-- The phase is bit 7 of byte 6: kind and station state stay below it. -/
theorem LaidOut.phase_iff (h : c.LaidOut p bytes) : p = true ↔ 128 ≤ byteAt bytes 6 := by
  have hkind := c.kind.code.isLt
  have hstate := c.stationState.isLt
  rw [h.flags]
  cases p with
  | true => simp only [if_true, Nat.le_add_left]
  | false =>
    simp only [Bool.false_eq_true, if_false, false_iff]
    omega

/-- With the phase known, the kind is the rest of byte 6 modulo 4 and the station state the quotient. -/
theorem LaidOut.flags_unique (hc : c.LaidOut p bytes) (hd : d.LaidOut q bytes) :
    c.kind = d.kind ∧ c.stationState = d.stationState ∧ p = q := by
  obtain rfl : p = q := Bool.eq_iff_iff.mpr (hc.phase_iff.trans hd.phase_iff.symm)
  have hsum := hc.flags.symm.trans hd.flags
  have hkindc := c.kind.code.isLt
  have hkindd := d.kind.code.isLt
  exact ⟨CompletionKind.code_injective (BitVec.eq_of_toNat_eq (by omega)), BitVec.eq_of_toNat_eq (by omega), rfl⟩

/-- Attempts take the low four bits of their two bytes. -/
theorem LaidOut.counts_unique (hc : c.LaidOut p bytes) (hd : d.LaidOut q bytes) (fc : c.Fits) (fd : d.Fits) :
    c.attempts = d.attempts ∧ c.segments = d.segments := by
  have hsum := hc.counts.symm.trans hd.counts
  have hattemptsc := fc.attempts
  have hattemptsd := fd.attempts
  omega

/-- Field by field, each read from its own place. -/
theorem LaidOut.unique (hc : c.LaidOut p bytes) (hd : d.LaidOut q bytes) (fc : c.Fits) (fd : d.Fits) : c = d ∧ p = q := by
  have htag : c.tag = d.tag := BitVec.eq_of_toNat_eq (hc.tag.symm.trans hd.tag)
  have hstatus : c.status = d.status := Status.code_injective (BitVec.eq_of_toNat_eq (hc.status.symm.trans hd.status))
  have hdetail : c.detail = d.detail := BitVec.eq_of_toNat_eq (hc.detail.symm.trans hd.detail)
  obtain ⟨hkind, hstate, hphase⟩ := hc.flags_unique hd
  have horigin : c.origin = d.origin := BitVec.eq_of_toNat_eq (hc.origin.symm.trans hd.origin)
  obtain ⟨hattempts, hsegments⟩ := hc.counts_unique hd fc fd
  have hdelivered : c.delivered = d.delivered := hc.delivered.symm.trans hd.delivered
  have hresidue : c.residue = d.residue := hc.residue.symm.trans hd.residue
  have hstamp : c.stamp = d.stamp := BitVec.eq_of_toNat_eq (hc.stamp.symm.trans hd.stamp)
  refine ⟨?_, hphase⟩
  cases c
  cases d
  simp only [Completion.mk.injEq]
  exact ⟨htag, hstatus, hdetail, hkind, hstate, horigin, hattempts, hsegments, hdelivered, hresidue, hstamp⟩

end Completion

/-- Settles O57: the bytes meet the table of R194, which leaves one completion and one phase for them. -/
theorem completionRecordIsLaidOut : Obligations.CompletionRecordIsLaidOut := by
  refine ⟨fun c phase attempts segments delivered residue => ?layout, ?injective, Status.all_map_code, rfl,
    CompletionKind.all_map_code⟩
  case layout =>
    have h := Completion.Fits.laidOut_bytes ⟨attempts, segments, delivered, residue⟩ phase
    exact ⟨c.bytes_length phase, h.tag, h.status, h.detail, h.flags, h.origin, h.counts, h.delivered, h.residue, h.stamp⟩
  case injective =>
    intro c d p q attempts segments delivered residue attempts' segments' delivered' residue' hbytes
    have fc : c.Fits := ⟨attempts, segments, delivered, residue⟩
    have fd : d.Fits := ⟨attempts', segments', delivered', residue'⟩
    have hd : d.LaidOut q (c.bytes p) := hbytes ▸ fd.laidOut_bytes q
    exact (fc.laidOut_bytes p).unique hd fc fd

end Sys2Proof.Machine
end

section
/-! PROOFS. What every step keeps: a step is a run of moves, from the state as it stands or from the reset values; the four invariants, the
queue of commands, what FAULTED keeps, and the reset state itself. -/

namespace Sys2Proof.Machine

/-! ### The reset values -/

theorem State.takeReset_line (s : State) (cause : ResetCause) (n : LineId) :
    (s.takeReset cause).line n = { Line.reset with rxHigh := (s.line n).rxHigh } := by
  simp [State.takeReset, State.line]

theorem State.takeReset_station (s : State) (cause : ResetCause) (k : SlotId) : (s.takeReset cause).station k = .absent := by
  simp [State.takeReset, State.station, State.reset]

theorem State.takeReset_poll (s : State) (cause : ResetCause) (id : PollId) : (s.takeReset cause).poll id = .free := by
  simp [State.takeReset, State.poll, State.reset]

/-- Power-on reset leaves the reset values of a state whose inputs are high. -/
theorem State.reset_eq_takeReset : State.reset = State.reset.takeReset .powerOn := by
  simp [State.takeReset, State.reset, Line.reset]

theorem State.takeReset_queuesInBounds (s : State) (cause : ResetCause) : (s.takeReset cause).QueuesInBounds := by
  refine ⟨Nat.zero_le _, fun n => ?_⟩
  rw [State.takeReset_line]
  exact ⟨Nat.zero_le _, Nat.zero_le _, List.nodup_nil⟩

theorem State.takeReset_stationsInRange (s : State) (cause : ResetCause) : (s.takeReset cause).StationsInRange := by
  intro k
  rw [State.takeReset_station]
  exact ⟨rfl, fun _ => rfl⟩

theorem State.takeReset_countersInRange (s : State) (cause : ResetCause) : (s.takeReset cause).CountersInRange := by
  refine ⟨fun n => ?line, fun k => ?station, fun id => ?poll, Nat.zero_le _⟩
  case line =>
    have zero := Nat.zero_le Config.counterMax
    rw [State.takeReset_line]
    exact ⟨zero, zero, zero, zero, zero, zero, zero, Nat.zero_le _⟩
  case station =>
    rw [State.takeReset_station]
    exact ⟨Nat.zero_le _, Nat.zero_le _⟩
  case poll =>
    rw [State.takeReset_poll]
    exact Nat.zero_le _

theorem State.takeReset_pollListsConsistent (s : State) (cause : ResetCause) : (s.takeReset cause).PollListsConsistent := by
  refine ⟨fun n => ?nodup, fun n id => ?mem, fun tag a hadmin => nomatch hadmin⟩
  case nodup =>
    rw [State.takeReset_line]
    exact List.nodup_nil
  case mem =>
    rw [State.takeReset_line, State.takeReset_poll]
    exact ⟨nofun, fun ⟨used, _⟩ => absurd rfl used⟩

/-! ### A step -/

/-- Every command answers a next state: a run of moves from the state as it stands, or from the reset values. -/
theorem exec_moves_or_reset (c : Instr) (s : State) :
    ∃ t, exec c s = .next t ∧ (Moves .any s t ∨ ∃ cause, Moves .any (s.takeReset cause) t) := by
  cases hreset : isReset c with
  | false =>
    obtain ⟨t, hexec, hmoves⟩ := exec_moves hreset s
    exact ⟨t, hexec, .inl hmoves⟩
  | true => exact exec_reset hreset s

/-- What every move keeps, the reset values have, and the queue of commands has no part in, every step keeps. -/
theorem step_keeps {P : State → Prop} (hpending : ∀ s rest, P s → P { s with pending := rest })
    (hmoves : ∀ {s t : State}, Moves .any s t → P s → P t) (hreset : ∀ (s : State) cause, P (s.takeReset cause)) {s t : State}
    (hs : P s) (hstep : step s = .next t) : P t := by
  unfold step at hstep
  split at hstep
  · obtain rfl := Host.Outcome.next.inj hstep
    exact hs
  · next c rest _ =>
    obtain ⟨u, hexec, hrun⟩ := exec_moves_or_reset c { s with pending := rest }
    obtain rfl := Host.Outcome.next.inj (hexec.symm.trans hstep)
    obtain hrun | ⟨cause, hrun⟩ := hrun
    · exact hmoves hrun (hpending s rest hs)
    · exact hmoves hrun (hreset _ cause)

/-- Settles O4: moves keep the depths, and the reset values have empty queues. -/
theorem stepKeepsQueueDepths : Obligations.StepKeepsQueueDepths := fun _ _ =>
  step_keeps (fun _ _ hs => hs) Moves.queuesInBounds State.takeReset_queuesInBounds

/-- Settles O5: moves keep the ranges of a station entry, and an ABSENT entry has them. -/
theorem stepKeepsStationRanges : Obligations.StepKeepsStationRanges := fun _ _ =>
  step_keeps (fun _ _ hs => hs) Moves.stationsInRange State.takeReset_stationsInRange

/-- Settles O6: moves keep the widths of the counters, and the reset values are zero. -/
theorem stepKeepsCounterRanges : Obligations.StepKeepsCounterRanges := fun _ _ =>
  step_keeps (fun _ _ hs => hs) Moves.countersInRange State.takeReset_countersInRange

/-- Settles O7: moves keep the poll lists in step with the entries, and after a reset no list holds an entry. -/
theorem stepKeepsPollLists : Obligations.StepKeepsPollLists := fun _ _ =>
  step_keeps (fun _ _ hs => hs) Moves.pollListsConsistent State.takeReset_pollListsConsistent

/-- Settles O2: no move touches the queue of commands, and a reset carries it over. -/
theorem everyCommandAnswersAndKeepsTheQueue : Obligations.EveryCommandAnswersAndKeepsTheQueue := by
  intro c s
  obtain ⟨t, hexec, hrun⟩ := exec_moves_or_reset c s
  refine ⟨t, hexec, ?_⟩
  obtain hrun | ⟨_, hrun⟩ := hrun
  · exact hrun.pending
  · exact hrun.pending

/-- Settles O8: a command that is no reset is a run of moves, and no move touches what FAULTED keeps. -/
theorem faultedIsLeftOnlyByReset : Obligations.FaultedIsLeftOnlyByReset := by
  intro c s t hreset hdevice hexec
  obtain ⟨u, hu, hmoves⟩ := exec_moves hreset s
  obtain rfl := Host.Outcome.next.inj (hu.symm.trans hexec)
  exact hmoves.faultKept hdevice

/-- Settles O1, from the two arms of a step. -/
theorem stepRunsTheFrontCommand : Obligations.StepRunsTheFrontCommand :=
  ⟨fun _ _ _ => rfl, fun s hs => by rw [step, hs]⟩

/-- Settles O3: power-on reset leaves reset values. -/
theorem resetStateIsInRange : Obligations.ResetStateIsInRange := by
  unfold Obligations.ResetStateIsInRange
  rw [State.reset_eq_takeReset]
  exact ⟨State.takeReset_queuesInBounds _ _, State.takeReset_stationsInRange _ _, State.takeReset_countersInRange _ _,
    State.takeReset_pollListsConsistent _ _⟩

/-- Past IDENT every word of the window is zero after power-on reset (R174). -/
theorem State.reset_registerWord : ∀ k : BitVec 6, 4 ≤ k.toNat → State.reset.registerWord k = 0#32 := by
  decide

/-- Settles O9: line, station, poll and ring by their reset values, the registers word by word. -/
theorem resetLeavesTheStatedValues : Obligations.ResetLeavesTheStatedValues := by
  have hline (n : LineId) : State.reset.line n = .reset := by simp [State.reset, State.line]
  have hstation (k : SlotId) : State.reset.station k = .absent := by simp [State.reset, State.station]
  have hpoll (id : PollId) : State.reset.poll id = .free := by simp [State.reset, State.poll]
  have hring (r : RingId) : State.reset.ring r = .notLoaded := by simp [State.reset, RingUnit.reset, State.ring]
  refine ⟨rfl, State.reset_registerWord, rfl, rfl, fun n => ?_, fun k => ?_, fun id => ?_, rfl, fun r => ?_, rfl, rfl⟩
  · rw [hline]
    exact ⟨rfl, rfl, rfl⟩
  · rw [hstation]
    rfl
  · rw [hpoll]
    rfl
  · rw [hring]
    rfl

end Sys2Proof.Machine
end

section
/-! PROOFS. A reset (R181): at once, or behind the burst in progress, whose outcome is discarded; the accesses held meanwhile, and the
register writes served outside it. -/

namespace Sys2Proof.Machine

/-! ### The two ways of a reset -/

theorem State.startReset_of_quiet {s : State} (hburst : s.hbi.burst = none) (hreset : s.hbi.resetting = none) (cause : ResetCause) :
    s.startReset cause = s.takeReset cause := by
  simp [State.startReset, hburst, hreset]

theorem State.startReset_of_busy {s : State} (h : s.hbi.burst.isSome ∨ s.hbi.resetting.isSome) (cause : ResetCause) :
    s.startReset cause = s.modHbi fun h => { h with resetting := some cause } := by
  rw [State.startReset, if_pos (by rw [Bool.or_eq_true]; exact h.symm)]

theorem State.finishReset_of_reset {s : State} {cause : ResetCause} (h : s.hbi.resetting = some cause) :
    s.finishReset = s.hbi.held.foldl State.serve (s.takeReset cause) := by
  simp [State.finishReset, h]

/-- In step 1 of a reset the end of a burst only frees the bus (R181). -/
theorem State.burstEnd_of_reset {s : State} {r : Requester} (hburst : s.burstOf r = true) (hreset : s.hbi.resetting.isSome)
    (act : State → State) : s.burstEnd r act = s.clearBurst := by
  rw [State.burstEnd, if_pos hburst, if_pos hreset]

/-- A fetch in progress is the burst that the end of a record fetch ends. -/
theorem State.fetchEnd_eq_burstEnd {s : State} {r : RingId} (hburst : s.burstOf (.ringFetch r) = true) (error : Bool)
    (data : Vector Byte 32) : s.fetchEnd error data = s.burstEnd (.ringFetch r) fun t => t.fetched r error data := by
  obtain ⟨b, hb, howner⟩ : ∃ b, s.hbi.burst = some b ∧ b.owner = .ringFetch r := by
    simpa [State.burstOf, Option.any_eq_true] using hburst
  simp [State.fetchEnd, hb, howner]

theorem State.grantBus_of_not_busFree {s : State} (h : s.busFree = false) : s.grantBus = s := by
  simp [State.grantBus, h]

theorem State.busFree_iff (s : State) :
    s.busFree = true ↔ s.hbi.burst = none ∧ s.hbi.resetting = none ∧ s.hbi.device ≠ .faulted := by
  simp [State.busFree, and_assoc]

theorem State.grantBus_of_reset {s : State} {cause : ResetCause} (h : s.hbi.resetting = some cause) : s.grantBus = s :=
  State.grantBus_of_not_busFree (by simp [State.busFree, h])

/-- Settles O10: at once with the bus free, otherwise marked; while marked, each burst's end frees the bus and nothing is granted. -/
theorem resetTakesItsSteps : Obligations.ResetTakesItsSteps := by
  refine ⟨fun s enable irq hburst hreset => ⟨?powerOn, ?function⟩, fun s enable irq hbusy => ⟨?joinPowerOn, ?joinFunction, ?wait⟩⟩
  case powerOn =>
    exact ⟨_, congrArg Host.Outcome.next (State.startReset_of_quiet hburst hreset _), rfl, rfl, rfl, rfl, rfl, s.takeReset_station _,
      s.takeReset_poll _, s.takeReset_line _, rfl⟩
  case function =>
    exact ⟨_, congrArg Host.Outcome.next (State.startReset_of_quiet hburst hreset _), rfl, rfl, rfl, rfl, rfl, s.takeReset_station _,
      s.takeReset_poll _, s.takeReset_line _, rfl⟩
  case joinPowerOn => exact congrArg Host.Outcome.next (State.startReset_of_busy hbusy _)
  case joinFunction => exact congrArg Host.Outcome.next (State.startReset_of_busy hbusy _)
  case wait =>
    intro cause hreset
    have freed {r : Requester} (hburst : s.burstOf r = true) (act : State → State) :
        Host.Outcome.next (φ := Fault) (ρ := Refusal) (s.burstEnd r act) = .next (s.modHbi fun h => { h with burst := none }) :=
      congrArg Host.Outcome.next (State.burstEnd_of_reset hburst (by rw [hreset]; rfl) act)
    refine ⟨fun _ h => freed h _, fun _ h => freed h _, fun _ h => freed h _, fun _ _ _ h => freed h _, fun _ h => freed h _,
      fun r error data h => ?fetch, fun _ _ h => freed h _, ?grant, ?values⟩
    case fetch => exact (congrArg Host.Outcome.next (State.fetchEnd_eq_burstEnd h error data)).trans (freed h _)
    case grant => exact congrArg Host.Outcome.next (State.grantBus_of_reset hreset)
    case values => exact congrArg Host.Outcome.next (State.finishReset_of_reset hreset)

/-! ### Register writes during a reset -/

/-- An access acts at the word its offset divided by 4 counts (R200). -/
theorem wordOffset_toNat : ∀ offset : BitVec 6, (wordOffset offset).toNat = 4 * (offset.toNat / 4) := by
  decide

theorem writesReset_iff (offset : BitVec 6) (value : Word) :
    writesReset offset value = true ↔ offset.toNat / 4 = 1 ∧ value[1] = true := by
  have hword : 4 * (offset.toNat / 4) = 4 ↔ offset.toNat / 4 = 1 := by omega
  rw [writesReset, wordOffset_toNat, Bool.and_eq_true, beq_iff_eq, hword]
  rfl

theorem exec_registerWrite_of_writesReset {offset : BitVec 6} {value : Word} (h : writesReset offset value = true) (s : State) :
    exec (.registerWrite offset value) s = .next (s.startReset .function) :=
  congrArg Host.Outcome.next (if_pos h)

theorem exec_registerWrite_of_not_writesReset {offset : BitVec 6} {value : Word} (h : writesReset offset value = false) (s : State) :
    exec (.registerWrite offset value) s =
      .next (s.access (.registerWrite offset value) fun t => t.writeRegister offset value) :=
  congrArg Host.Outcome.next (if_neg (by rw [h]; decide))

/-- The commands that are register writes with RESET zero (R174, R175). -/
def isAccess : Instr → Bool
  | .enableSet _ | .enableClear _ | .irqEnable _ | .attentionAcknowledge _ | .attentionMask _ | .notify _ | .completionRelease _
  | .captureRelease _ => true
  | .registerWrite offset value => !writesReset offset value
  | _ => false

/-- A register write is an access that acts as it is served after a reset. -/
theorem exec_of_isAccess {c : Instr} (h : isAccess c = true) (s : State) :
    exec c s = .next (s.access c fun t => t.serve c) := by
  cases c with
  | registerWrite offset value =>
    exact exec_registerWrite_of_not_writesReset (by rwa [isAccess, Bool.not_eq_true'] at h) s
  | enableSet | enableClear | irqEnable | attentionAcknowledge | attentionMask | notify | completionRelease | captureRelease => rfl
  | _ => cases h

theorem State.access_of_reset {s : State} (h : s.hbi.resetting.isSome) (c : Instr) (act : State → State) :
    s.access c act = s.modHbi fun h => { h with held := h.held ++ [c] } := by
  rw [State.access, if_pos h]

/-- Settles O11: a RESET write joins; any other access is held in a reset, and served outside one. -/
theorem heldWritesAreServedInOrder : Obligations.HeldWritesAreServedInOrder := by
  refine ⟨fun s offset value hreset hoffset hvalue => ?join, fun s c hreset hc => ?held, fun s c hreset hc => ?served⟩
  case join =>
    rw [exec_registerWrite_of_writesReset ((writesReset_iff offset value).mpr ⟨hoffset, hvalue⟩),
      State.startReset_of_busy (.inr hreset)]
  case held => rw [exec_of_isAccess hc, State.access_of_reset hreset]
  case served => rw [exec_of_isAccess hc, State.access_of_no_reset hreset]

end Sys2Proof.Machine
end

section
/-! PROOFS. The registers the host writes: CONTROL (R175), ATTENTION (R182, R184), NOTIFY with its ring faults (R140, R141), and CAPTURE
RELEASE with the pause evaluation (R126, R132). -/

namespace Sys2Proof.Machine

/-! ### CONTROL -/

theorem exec_enableSet {s : State} (h : s.hbi.resetting = none) (irq : Bool) :
    exec (.enableSet irq) s = .next (s.writeControl true irq) :=
  congrArg Host.Outcome.next (State.access_of_no_reset h _ _)

theorem exec_enableClear {s : State} (h : s.hbi.resetting = none) (irq : Bool) :
    exec (.enableClear irq) s = .next (s.writeControl false irq) :=
  congrArg Host.Outcome.next (State.access_of_no_reset h _ _)

theorem State.writeControl_of_same {s : State} {v : Bool} (h : s.hbi.enable = v) (irq : Bool) :
    s.writeControl v irq = s.modHbi fun h => { h with irqEnable := irq } :=
  if_pos h

/-- The table of R175 for ENABLE zero to one; `t` has the two bits written. -/
theorem State.writeControl_set {s : State} (h : s.hbi.enable = false) (irq : Bool) :
    s.writeControl true irq =
      let t := s.modHbi fun h => { h with irqEnable := irq, enable := true }
      match s.hbi.device with
      | .unconfigured =>
        if s.hbi.contextAddress.toNat % 64 = 0 then t.modHbi fun h => { h with device := .loading }
        else t.enterFaulted .contextInvalid
      | .halted => t.returnToRunning
      | .loading | .running | .halting | .faulted => t := by
  have hne : ¬(s.writeIrqEnable irq).hbi.enable = true := by
    change ¬s.hbi.enable = true
    rw [h]
    decide
  rw [State.writeControl, State.writeEnable, if_neg hne]
  cases hdevice : s.hbi.device <;> simp [State.writeIrqEnable, hdevice] <;> rfl

/-- The table of R175 for ENABLE one to zero. -/
theorem State.writeControl_clear {s : State} (h : s.hbi.enable = true) (irq : Bool) :
    s.writeControl false irq =
      let t := s.modHbi fun h => { h with irqEnable := irq, enable := false }
      if s.hbi.device = .running then t.enterHalting else t := by
  have hne : ¬(s.writeIrqEnable irq).hbi.enable = false := by
    change ¬s.hbi.enable = false
    rw [h]
    decide
  rw [State.writeControl, State.writeEnable, if_neg hne]
  cases hdevice : s.hbi.device <;> simp [State.writeIrqEnable, hdevice] <;> rfl

/-- Settles O12, row by row of the table of R175. -/
theorem controlWriteFollowsItsTable : Obligations.ControlWriteFollowsItsTable := by
  intro s irq hreset
  rw [exec_irqEnable hreset, exec_enableSet hreset, exec_enableClear hreset]
  refine ⟨fun _ _ _ _ => rfl, rfl, fun hsame => ?_, fun hsame => ?_, fun hclear => ?set, fun hset => ?clear⟩
  · rw [State.writeControl_of_same hsame]
  · rw [State.writeControl_of_same hsame]
  case set =>
    rw [State.writeControl_set hclear]
    refine ⟨fun hdevice haligned => ?_, fun hdevice hodd => ?_, fun hdevice => ?_, ?_⟩
    · simp [hdevice, haligned]
    · simp [hdevice, hodd]
    · simp [hdevice]
    · rintro (hdevice | hdevice | hdevice | hdevice) <;> simp [hdevice]
  case clear =>
    rw [State.writeControl_clear hset]
    exact ⟨fun hdevice => by simp [hdevice], fun hdevice => by simp [hdevice]⟩

/-! ### ATTENTION -/

theorem exec_attentionAcknowledge {s : State} (h : s.hbi.resetting = none) (value : Word) :
    exec (.attentionAcknowledge value) s = .next (s.acknowledge value) :=
  congrArg Host.Outcome.next (State.access_of_no_reset h _ _)

theorem State.acknowledge_eq (s : State) (value : Word) :
    s.acknowledge value =
      let t := s.modHbi fun h => { h with attention := h.attention &&& ~~~value.setWidth 7 }
      if value[0] then t.modWriter fun w => { w with moderationCount := 0, holdoffTimer := none } else t := rfl

/-- The causes a write leaves latched (R182). -/
theorem getElem_and_not_setWidth (attention : BitVec 7) (value : Word) (i : Fin 7) :
    (attention &&& ~~~value.setWidth 7)[i] = (attention[i] && !value[i.val]) := by
  simp [BitVec.getLsbD_eq_getElem (show i.val < 32 by omega)]

/-- Settles O14: each cause bit by bit, and COMPLETION's own effect on the moderation. -/
theorem acknowledgeClearsWhatIsWritten : Obligations.AcknowledgeClearsWhatIsWritten := by
  intro s value hreset
  rw [exec_attentionAcknowledge hreset, State.acknowledge_eq]
  refine ⟨_, rfl, fun i => ?cause, fun hzero => ?other, fun hone => ?completion⟩
  case cause => split <;> exact getElem_and_not_setWidth _ _ _
  case other => simp [hzero, State.modHbi]
  case completion => simp [hone, State.modHbi, State.modWriter]

/-! ### Latching a cause -/

/-- The place of a cause in ATTENTION (R200). -/
def Cause.index : Cause → Nat
  | .completion => 0 | .captureData => 1 | .captureEvent => 2 | .lineEvent => 3 | .ringFault => 4 | .halted => 5 | .deviceFault => 6

theorem causeBit_getElem (c : Cause) (i : Fin 7) : (causeBit c)[i] = (i.val == c.index) := by
  revert i
  cases c <;> decide

/-- A latched cause joins those latched before (R182). -/
theorem State.latch_attention_getElem (s : State) (c : Cause) (i : Fin 7) :
    (s.latch c).hbi.attention[i] = (s.hbi.attention[i] || i.val == c.index) := by
  rw [← causeBit_getElem, State.latch_attention]
  simp

theorem State.latch_eq_modHbi (s : State) (c : Cause) :
    s.latch c = s.modHbi fun h => { h with attention := (s.latch c).hbi.attention } := rfl

/-! ### NOTIFY -/

theorem exec_notify {s : State} (h : s.hbi.resetting = none) (value : Word) :
    exec (.notify value) s = .next (s.writeNotify value) :=
  congrArg Host.Outcome.next (State.access_of_no_reset h _ _)

theorem notifyId_toNat (value : Word) : (notifyId value).toNat = value.toNat / 65536 % 16 := by
  rw [notifyId, BitVec.extractLsb'_toNat, Nat.shiftRight_eq_div_pow]

theorem State.writeNotify_of_not_working {s : State} (h : s.hbi.device.working = false) (value : Word) :
    s.writeNotify value = s := by
  simp [State.writeNotify, h]

theorem State.writeNotify_of_badId {s : State} {value : Word} (hdevice : s.hbi.device.working = true)
    (hid : 5 ≤ value.toNat / 65536 % 16) :
    s.writeNotify value = s.ringFault .badNotify (BitVec.ofNat 4 (value.toNat / 65536 % 16)) := by
  have hbits : notifyId value = BitVec.ofNat 4 (value.toNat / 65536 % 16) := by
    rw [← notifyId_toNat, BitVec.ofNat_toNat, BitVec.setWidth_eq]
  rw [State.writeNotify, if_pos hdevice, dif_neg (by rw [notifyId_toNat]; omega), hbits]

theorem State.writeNotify_of_ring {s : State} {value : Word} {r : RingId} (hdevice : s.hbi.device.working = true)
    (hid : r.val = value.toNat / 65536 % 16) :
    s.writeNotify value = s.notifyRing r (BitVec.ofNat 16 (value.toNat % 65536)) := by
  have hlt : (notifyId value).toNat < 5 := by rw [notifyId_toNat, ← hid]; exact r.isLt
  have hring : (⟨(notifyId value).toNat, hlt⟩ : RingId) = r := Fin.ext (by rw [hid, ← notifyId_toNat])
  rw [State.writeNotify, if_pos hdevice, dif_pos hlt, hring, extractLsb'_half]

theorem State.notifyRing_of_faulted {s : State} {r : RingId} (h : (s.ring r).state = .faulted) (p : Half) :
    s.notifyRing r p = s := by
  simp [State.notifyRing, h]

theorem State.notifyRing_of_active {s : State} {r : RingId} (h : (s.ring r).state = .active) (p : Half) :
    s.notifyRing r p =
      (if (s.ring r).producerValid p then s.modRing r fun g => { g with accepted := p } else s.faultRing r .badProducer).askFetch := by
  simp [State.notifyRing, h]

/-- R140 by the distances from the consumer index. -/
theorem Ring.producerValid_iff (g : Ring) (p : Half) :
    g.producerValid p = true ↔
      (g.accepted.toNat + 65536 - g.consumer.toNat) % 65536 ≤ (p.toNat + 65536 - g.consumer.toNat) % 65536 ∧
        (p.toNat + 65536 - g.consumer.toNat) % 65536 ≤ g.size := by
  rw [Ring.producerValid, Bool.and_eq_true, decide_eq_true_iff, decide_eq_true_iff, toNat_index_sub, toNat_index_sub]

/-- Settles O16: by device state, ring id, ring state and the distances from the consumer index; then the record of a ring fault. -/
theorem notifyIsValidated : Obligations.NotifyIsValidated := by
  refine ⟨fun s value hreset => ?write, fun s cause id => ?ringFault⟩
  case write =>
    intro id p
    rw [exec_notify hreset]
    refine ⟨fun hdevice => ?ignored, fun hdevice => ?heard⟩
    case ignored => rw [State.writeNotify_of_not_working ((DeviceState.working_eq_false_iff _).mpr hdevice)]
    case heard =>
      have hworking := (DeviceState.working_eq_true_iff _).mpr hdevice
      refine ⟨fun hid => by rw [State.writeNotify_of_badId hworking hid], fun r hid => ?_⟩
      have hp : (BitVec.ofNat 16 p).toNat = p := Nat.mod_eq_of_lt (Nat.mod_lt _ (by decide))
      rw [State.writeNotify_of_ring hworking hid]
      refine ⟨fun hfaulted => by rw [State.notifyRing_of_faulted hfaulted], fun hactive => ?_⟩
      have hvalid := (s.ring r).producerValid_iff (BitVec.ofNat 16 p)
      rw [hp] at hvalid
      rw [State.notifyRing_of_active hactive]
      refine ⟨fun hahead hsize => ?valid, fun hbad => ?invalid⟩
      case valid => rw [if_pos (hvalid.mpr ⟨hahead, hsize⟩)]
      case invalid =>
        rw [if_neg fun h => absurd (hvalid.mp h) (by omega), State.faultRing, hid]
  case ringFault =>
    exact ⟨rfl, rfl, rfl, BitVec.toNat_add s.ringUnit.faultCount 1#8, rfl, rfl,
      fun i => State.latch_attention_getElem _ _ i, rfl⟩

/-! ### CAPTURE RELEASE -/

theorem exec_captureRelease {s : State} (h : s.hbi.resetting = none) (value : Word) :
    exec (.captureRelease value) s = .next (s.writeCaptureRelease value) :=
  congrArg Host.Outcome.next (State.access_of_no_reset h _ _)

theorem Capture.holdConfig_of_none {c : Capture} (h : c.config = none) : c.holdConfig = none := by
  simp [Capture.holdConfig, h]

theorem Capture.holdConfig_of_loop {c : Capture} {g : CaptureConfig} (h : c.config = some g) (hmode : g.mode = .loop) :
    c.holdConfig = none := by
  simp [Capture.holdConfig, h, hmode]

theorem Capture.holdConfig_of_hold {c : Capture} {g : CaptureConfig} (h : c.config = some g) (hmode : g.mode = .hold) :
    c.holdConfig = some g := by
  simp [Capture.holdConfig, h, hmode]

theorem State.captureReleaseTo_of_ignored {s : State} (h : s.capture.holdConfig = none) (v : Nat) :
    s.captureReleaseTo v = s := by
  simp [State.captureReleaseTo, h]

theorem State.captureReleaseTo_of_hold {s : State} {g : CaptureConfig} (h : s.capture.holdConfig = some g) (v : Nat) :
    s.captureReleaseTo v =
      if s.capture.releaseValid g.size v then
        (s.modCapture fun c =>
          { c with releaseOffset := v, unreleased := c.unreleased - c.releaseDistance g.size v }).evaluatePause
      else (s.modCapture fun c => { c with badRelease := true }).latch .captureEvent := by
  simp [State.captureReleaseTo, h]

theorem Capture.releaseValid_iff (c : Capture) (size v : Nat) :
    c.releaseValid size v = true ↔ v % 4 = 0 ∧ v < size ∧
      (v + size - c.releaseOffset) % size ≤ (c.writeOffset + size - c.releaseOffset) % size := by
  rw [Capture.releaseValid, Bool.and_eq_true, Bool.and_eq_true, beq_iff_eq, decide_eq_true_iff, decide_eq_true_iff, and_assoc]
  rfl

/-- The low 20 bits of a register value (R200). -/
theorem extractLsb'_twenty_toNat (value : Word) : (value.extractLsb' 0 20).toNat = value.toNat % 1048576 := by
  rw [BitVec.extractLsb'_toNat, Nat.shiftRight_zero]

theorem State.writeCaptureRelease_of_faulted {s : State} (h : s.hbi.device = .faulted) (value : Word) :
    s.writeCaptureRelease value = s := if_pos h

theorem State.writeCaptureRelease_eq {s : State} (h : s.hbi.device ≠ .faulted) (value : Word) :
    s.writeCaptureRelease value = s.captureReleaseTo (value.toNat % 1048576) := by
  rw [State.writeCaptureRelease, if_neg h, extractLsb'_twenty_toNat]

/-- With no HOLD configuration a release is ignored, in every device state. -/
theorem State.writeCaptureRelease_of_ignored {s : State} (h : s.capture.holdConfig = none) (value : Word) :
    s.writeCaptureRelease value = s := by
  by_cases hdevice : s.hbi.device = .faulted
  · exact State.writeCaptureRelease_of_faulted hdevice value
  · rw [State.writeCaptureRelease_eq hdevice, State.captureReleaseTo_of_ignored h]

theorem State.evaluatePause_of_ignored {s : State} (h : s.capture.holdConfig = none) : s.evaluatePause = s := by
  simp [State.evaluatePause, h]

/-- Pause evaluation in HOLD mode by the flag and the free space (R126). -/
theorem State.evaluatePause_of_hold {s : State} {g : CaptureConfig} (h : s.capture.holdConfig = some g) :
    s.evaluatePause =
      if s.capture.paused = false ∧ s.capture.freeSpace g < g.stopMark then
        (s.modCapture fun c => { c with paused := true }).latch .captureEvent
      else if s.capture.paused = true ∧ g.resumeMark ≤ s.capture.freeSpace g then
        (s.modCapture fun c => { c with paused := false }).latch .captureEvent
      else s := by
  simp [State.evaluatePause, h]

/-- Settles O18: what makes a release be ignored, the three tests of its offset, and the two marks of the pause. -/
theorem captureReleaseIsValidated : Obligations.CaptureReleaseIsValidated := by
  refine ⟨fun s value hreset => ?write, fun s => ⟨fun g hconfig hmode => ?pause, fun g hconfig hmode => ?loop, fun hconfig => ?off⟩⟩
  case write =>
    intro v
    rw [exec_captureRelease hreset]
    refine ⟨fun hdevice => ?faulted, fun hconfig => ?disabled, fun g hconfig hmode => ?loopMode, fun g hdevice hconfig hmode => ?hold⟩
    case faulted => rw [State.writeCaptureRelease_of_faulted hdevice]
    case disabled => rw [State.writeCaptureRelease_of_ignored (Capture.holdConfig_of_none hconfig)]
    case loopMode => rw [State.writeCaptureRelease_of_ignored (Capture.holdConfig_of_loop hconfig hmode)]
    case hold =>
      rw [State.writeCaptureRelease_eq hdevice, State.captureReleaseTo_of_hold (Capture.holdConfig_of_hold hconfig hmode)]
      have hvalid := s.capture.releaseValid_iff g.size v
      refine ⟨fun haligned hsize hspan => ?valid, fun hbad => ?invalid⟩
      case valid =>
        rw [if_pos (hvalid.mpr ⟨haligned, hsize, hspan⟩)]
        rfl
      case invalid =>
        rw [if_neg fun h => absurd (hvalid.mp h) (by omega)]
        exact ⟨_, rfl, fun i => State.latch_attention_getElem _ _ i, rfl⟩
  case pause =>
    rw [State.evaluatePause_of_hold (Capture.holdConfig_of_hold hconfig hmode)]
    change let free := s.capture.freeSpace g; _
    intro free
    refine ⟨fun hpaused hfree => ?_, fun hpaused hfree => ?_, fun hpaused hfree => ?_, fun hpaused hfree => ?_⟩
    · rw [if_pos ⟨hpaused, hfree⟩]
    · rw [if_neg fun h => h.2.not_ge hfree, if_neg (by simp [hpaused])]
    · rw [if_neg (by simp [hpaused]), if_pos ⟨hpaused, hfree⟩]
    · rw [if_neg (by simp [hpaused]), if_neg fun h => hfree.not_ge h.2]
  case loop => exact State.evaluatePause_of_ignored (Capture.holdConfig_of_loop hconfig hmode)
  case off => exact State.evaluatePause_of_ignored (Capture.holdConfig_of_none hconfig)

end Sys2Proof.Machine
end

section
/-! PROOFS. Rules of the shared operations that the later proofs use: updates of one part joined and compared at that part, the end of a
burst, and a claim with an entry free or without. -/

namespace Sys2Proof.Machine

/-! ### Updates of one part -/

/-- An update of a line is what it makes of that line. -/
theorem State.modLine_congr {s : State} {n : LineId} {f g : Line → Line} (h : f (s.line n) = g (s.line n)) :
    s.modLine n f = s.modLine n g :=
  congrArg (fun l => { s with lines := s.lines.set n l }) h

theorem State.modStation_congr {s : State} {k : SlotId} {f g : Station → Station} (h : f (s.station k) = g (s.station k)) :
    s.modStation k f = s.modStation k g :=
  congrArg (fun st => { s with stations := s.stations.set k st }) h

theorem State.modPoll_congr {s : State} {id : PollId} {f g : Poll → Poll} (h : f (s.poll id) = g (s.poll id)) :
    s.modPoll id f = s.modPoll id g :=
  congrArg (fun p => { s with polls := s.polls.set id p }) h

theorem State.modLine_line_self (s : State) (n : LineId) (f : Line → Line) : (s.modLine n f).line n = f (s.line n) := by
  rw [State.modLine_line, if_pos rfl]

theorem State.modStation_station_self (s : State) (k : SlotId) (f : Station → Station) :
    (s.modStation k f).station k = f (s.station k) := by
  rw [State.modStation_station, if_pos rfl]

theorem State.modPoll_poll_self (s : State) (id : PollId) (f : Poll → Poll) : (s.modPoll id f).poll id = f (s.poll id) := by
  rw [State.modPoll_poll, if_pos rfl]

/-- Two updates of one line are one. -/
theorem State.modLine_modLine (s : State) (n : LineId) (f g : Line → Line) :
    (s.modLine n f).modLine n g = s.modLine n fun l => g (f l) := by
  simp [State.modLine]

/-- Two updates of one station entry are one. -/
theorem State.modStation_modStation (s : State) (k : SlotId) (f g : Station → Station) :
    (s.modStation k f).modStation k g = s.modStation k fun st => g (f st) := by
  simp [State.modStation]

/-- An update that leaves its line as it is changes nothing. -/
theorem State.modLine_self {s : State} {n : LineId} {f : Line → Line} (h : f (s.line n) = s.line n) : s.modLine n f = s := by
  have hset : s.lines.set n (s.line n) = s.lines := Vector.set_getElem_self _
  rw [State.modLine_congr (g := fun _ => s.line n) h]
  change { s with lines := s.lines.set n (s.line n) } = s
  rw [hset]

/-- An update that leaves its station entry as it is changes nothing. -/
theorem State.modStation_self {s : State} {k : SlotId} {f : Station → Station} (h : f (s.station k) = s.station k) :
    s.modStation k f = s := by
  have hset : s.stations.set k (s.station k) = s.stations := Vector.set_getElem_self _
  rw [State.modStation_congr (g := fun _ => s.station k) h]
  change { s with stations := s.stations.set k (s.station k) } = s
  rw [hset]

/-! ### The end of a burst -/

/-- With no reset waiting the outcome of a burst acts (R181). -/
theorem State.burstEnd_of_burst {s : State} {r : Requester} (hburst : s.burstOf r = true) (hreset : s.hbi.resetting = none)
    (act : State → State) : s.burstEnd r act = act s.clearBurst := by
  rw [State.burstEnd, if_pos hburst, if_neg (by rw [hreset]; decide)]

/-! ### Claims -/

theorem State.hasRoom_iff (s : State) : s.hasRoom = true ↔ s.writer.holding.length < 16 := decide_eq_true_iff

/-- A claim is granted at once exactly with an entry free and the device not FAULTED (R151, R154). -/
theorem State.mayGrant_iff (s : State) :
    (s.hasRoom && s.hbi.device != .faulted) = true ↔ s.writer.holding.length < 16 ∧ s.hbi.device ≠ .faulted := by
  rw [Bool.and_eq_true, State.hasRoom_iff, bne_iff_ne]

theorem State.mayGrant_eq_false {s : State} (h : 16 ≤ s.writer.holding.length ∨ s.hbi.device = .faulted) :
    (s.hasRoom && s.hbi.device != .faulted) = false := by
  rw [Bool.eq_false_iff, ne_eq, State.mayGrant_iff]
  exact fun ⟨hroom, hdevice⟩ => h.elim hroom.not_ge hdevice

theorem State.tryClaim_of_room {s : State} (hroom : s.writer.holding.length < 16) (hdevice : s.hbi.device ≠ .faulted) (k : Fin 7)
    (c : Completion) : s.tryClaim k c = some (s.grantTo k c) := if_pos ((s.mayGrant_iff).mpr ⟨hroom, hdevice⟩)

theorem State.tryClaim_of_refused {s : State} (h : 16 ≤ s.writer.holding.length ∨ s.hbi.device = .faulted) (k : Fin 7)
    (c : Completion) : s.tryClaim k c = none := by
  rw [State.tryClaim, State.mayGrant_eq_false h]
  rfl

theorem lineClaimant_succ (n : LineId) : lineClaimant n + 1 = Fin.ofNat 7 (n.val + 1) := by
  revert n
  decide

end Sys2Proof.Machine
end

section
/-! PROOFS. What a line receives: the levels of RXn and the break (R3, R4, R36), a character by the engine's state (R19 to R35), the frame
collected in RECEIVE (R12, R31), and the response timer with the false start (R29, R30, R32). -/

namespace Sys2Proof.Machine

/-! ### A character and its marks -/

/-- A character is good when its stop bit was high and its parity satisfies R1 (R3). -/
theorem LineConfig.unmarked_iff (c : LineConfig) {value : Byte} {bits : Vector Bool 8} (hbits : ∀ k : Fin 8, bits[k] = value.getLsbD k)
    (parityBit stopBit : Bool) :
    let ones := (List.finRange 8).countP (fun k : Fin 8 => bits[k]) + (if parityBit then 1 else 0)
    c.unmarked value parityBit stopBit = true ↔ stopBit = true ∧
      (c.parity = .none ∨ (c.parity = .even ∧ ones % 2 = 0) ∨ (c.parity = .odd ∧ ones % 2 = 1)) := by
  intro ones
  have hones : (List.finRange 8).countP (fun k : Fin 8 => value.getLsbD k) + bitOf parityBit = ones := by
    simp only [ones, hbits]
    rfl
  rw [LineConfig.unmarked, parityFails_eq, hones, Bool.and_eq_true, and_comm]
  cases c.parity <;> simp

theorem State.handCharacter_of_none {s : State} {n : LineId} {stopBit : Bool}
    (h : (s.line n).rxPhase ≠ .inCharacter ∨ (s.line n).rxHigh ≠ stopBit) (bits : Vector Bool 8) (parityBit : Bool) :
    s.handCharacter n bits parityBit stopBit = s :=
  if_neg fun ⟨hphase, hstop⟩ => h.elim (· hphase) (· hstop)

/-- A hand-over: the receiver's phase moves on, and the engine takes the character with its marks. -/
theorem State.handCharacter_of_some {s : State} {n : LineId} {value : Byte} {bits : Vector Bool 8} {stopBit : Bool}
    (hphase : (s.line n).rxPhase = .inCharacter) (hstop : (s.line n).rxHigh = stopBit)
    (hbits : ∀ k : Fin 8, bits[k] = value.getLsbD k) (parityBit : Bool) :
    s.handCharacter n bits parityBit stopBit =
      (s.modLine n (Line.afterHandOver stopBit)).takeCharacter n value
        ((s.line n).config.unmarked value parityBit stopBit) := by
  rw [State.handCharacter, receivedByte_eq fun k => (hbits k).symm]
  exact if_pos ⟨hphase, hstop⟩

/-! ### The stray frame candidate (R22) -/

/-- The candidate is given a frame, and the gap before the next character is measured anew (R22). -/
def Line.withCandidate (l : Line) (frame : List Byte) : Line :=
  { l with candidate := frame, timers := { l.timers with gap := some l.config.interCharacterLimit } }

/-- The rows of R22: no candidate, and a candidate with its frame after the new character. -/
theorem Line.candidateStep_eq (l : Line) (value : Byte) (good : Bool) :
    l.candidateStep value good =
      let frame := l.candidate ++ [value]
      if l.candidate = [] then (if good = true ∧ value = Config.sof then l.withCandidate frame else l)
      else if good = false ∨ (frame.length = 5 ∧ 64 < value.toNat) then l.dropCandidate
      else if frameComplete frame = true then (if checkCorrect frame then l.countStrayFrame else l).dropCandidate
      else l.withCandidate frame := by
  cases hc : l.candidate with
  | nil => simp [Line.candidateStep, hc, Line.restartGap, Line.withCandidate]
  | cons c cs => cases good <;> simp [Line.candidateStep, hc, Line.restartGap, Line.withCandidate]

theorem frameComplete_iff (frame : List Byte) :
    frameComplete frame = true ↔ 5 ≤ frame.length ∧ frame.length = (frame.getD 4 0#8).toNat + 7 := by
  rw [frameComplete, Bool.and_eq_true, decide_eq_true_iff, decide_eq_true_iff]
  rfl

/-! ### The echo (R27) -/

theorem Line.echoStep_of_ignored {l : Line} (h : l.config.echoCheck = false ∨ l.mismatch = true) (value : Byte) (good : Bool) :
    l.echoStep value good = l := by
  obtain h | h := h <;> simp [Line.echoStep, h]

theorem Line.echoStep_of_match {l : Line} {value : Byte} (hcheck : l.config.echoCheck = true) (hmismatch : l.mismatch = false)
    (hecho : l.echoPending = some value) : l.echoStep value true = { l with echoPending := none } := by
  simp [Line.echoStep, hcheck, hmismatch, hecho]

theorem Line.echoStep_of_mismatch {l : Line} {value : Byte} {good : Bool} (hcheck : l.config.echoCheck = true)
    (hmismatch : l.mismatch = false) (h : good = false ∨ l.echoPending ≠ some value) :
    l.echoStep value good = l.echoMismatch := by
  have hno : (good && l.echoPending == some value) = false := by
    obtain rfl | hne := h
    · rfl
    · simp [hne]
  simp [Line.echoStep, hcheck, hmismatch, hno]

/-! ### A character at the engine -/

theorem State.takeCharacter_of_deaf {s : State} {n : LineId}
    (h : (s.line n).engine = .off ∨ (s.line n).engine = .lead ∨ (s.line n).engine = .trail) (value : Byte) (good : Bool) :
    s.takeCharacter n value good = s := by
  obtain h | h | h := h <;> simp [State.takeCharacter, h]

theorem State.takeCharacter_of_stray {s : State} {n : LineId}
    (h : (s.line n).engine = .quiet ∨ (s.line n).engine = .backoff ∨ (s.line n).engine = .deliver ∨
      (s.line n).engine = .completeWait) (value : Byte) (good : Bool) :
    s.takeCharacter n value good = s.modLine n Line.countStray := by
  obtain h | h | h | h := h <;> simp [State.takeCharacter, h]

/-- In IDLE a character is a stray one, then a step of the candidate (R22). -/
theorem State.takeCharacter_of_idle {s : State} {n : LineId} {value : Byte} {good : Bool} {f : Line → Line}
    (h : (s.line n).engine = .idle) (hstep : (s.line n).countStray.candidateStep value good = f (s.line n).countStray) :
    s.takeCharacter n value good = (s.modLine n Line.countStray).modLine n f := by
  rw [State.modLine_modLine, ← State.modLine_congr (f := fun l => l.countStray.candidateStep value good) hstep]
  simp [State.takeCharacter, h]

theorem State.takeCharacter_of_send {s : State} {n : LineId} (h : (s.line n).engine = .send) (value : Byte) (good : Bool) :
    s.takeCharacter n value good = s.modLine n fun l => l.echoStep value good := by
  simp [State.takeCharacter, h]

theorem State.takeCharacter_of_await_sof {s : State} {n : LineId} (h : (s.line n).engine = .await) :
    s.takeCharacter n Config.sof true = s.modLine n fun l =>
      { l with engine := .receive, received := [Config.sof]
               timers := { l.timers with gap := some l.config.interCharacterLimit } } := by
  simp [State.takeCharacter, h, State.awaitCharacter, Line.restartGap]

/-- Noise in AWAIT; an expiry held for the character then takes effect (R29, R30). -/
theorem State.takeCharacter_of_await_noise {s : State} {n : LineId} {value : Byte} {good : Bool} (h : (s.line n).engine = .await)
    (hnoise : good = false ∨ value ≠ Config.sof) :
    s.takeCharacter n value good =
      if (s.line n).timers.response = .expired then (s.modLine n Line.countNoise).failAttempt n .timeout
      else s.modLine n Line.countNoise := by
  have hno : (good && value == Config.sof) = false := by
    obtain rfl | hne := hnoise
    · rfl
    · simp [hne]
  simp only [State.takeCharacter, h, State.awaitCharacter, hno]
  cases (s.line n).timers.response <;> rfl

theorem exec_characterReceived (s : State) (n : LineId) (bits : Vector Bool 8) (parityBit stopBit : Bool) :
    exec (.characterReceived n bits parityBit stopBit) s = .next (s.handCharacter n bits parityBit stopBit).eventEnd := rfl

/-- Settles O45: with the hand-over said once, one row of the receiver's table for each engine state. -/
theorem receivedCharacterMeetsTheState : Obligations.ReceivedCharacterMeetsTheState := by
  intro s n value bits parityBit stopBit hbits l ones good up t stray noise run frame complete drop collect
  have hgood : l.config.unmarked value parityBit stopBit = true ↔ good := l.config.unmarked_iff hbits parityBit stopBit
  have hbad : ¬good → l.config.unmarked value parityBit stopBit = false := fun h => Bool.eq_false_iff.mpr fun k => h (hgood.mp k)
  refine ⟨fun hnone => ?none, fun hphase hstop => ?_⟩
  case none => exact congrArg (fun u => Host.Outcome.next (State.eventEnd u)) (State.handCharacter_of_none hnone bits parityBit)
  have hline : t.line n = l.afterHandOver stopBit := State.modLine_line_self s n _
  have hrun : run = .next (t.takeCharacter n value (l.config.unmarked value parityBit stopBit)).eventEnd :=
    congrArg (fun u => Host.Outcome.next (State.eventEnd u)) (State.handCharacter_of_some hphase hstop hbits parityBit)
  have hengine : (t.line n).engine = l.engine := by rw [hline]; rfl
  have hcand : (t.line n).countStray.candidate = l.candidate := by rw [hline]; rfl
  have noGood : ∀ {P : Prop}, ¬good ∨ P → l.config.unmarked value parityBit stopBit = false ∨ P := fun h => h.imp_left hbad
  rw [hrun]
  refine ⟨fun h => ?deaf, fun h => ?stray, fun h hnil => ⟨fun hg hsof => ?start, fun hno => ?noStart⟩, fun h hsome => ?candidate,
    fun h hignored => ?noEcho, fun h hcheck hmismatch => ⟨fun hg hecho => ?echo, fun hno => ?mismatch⟩, fun h hg hsof => ?sof,
    fun h hno => ⟨fun hexpired => ?expired, fun hrunning => ?noise⟩⟩
  case deaf => rw [State.takeCharacter_of_deaf (by rwa [hengine])]
  case stray =>
    rw [State.takeCharacter_of_stray (by rwa [hengine])]
    rfl
  case start =>
    rw [State.takeCharacter_of_idle (f := fun m => m.withCandidate frame) (hengine.trans h)
      (by rw [Line.candidateStep_eq, if_pos (hcand.trans hnil), if_pos ⟨hgood.mpr hg, hsof⟩, hcand])]
    rfl
  case noStart =>
    rw [State.takeCharacter_of_idle (f := id) (hengine.trans h)
      (by rw [Line.candidateStep_eq, if_pos (hcand.trans hnil), if_neg fun k => hno.elim (· (hgood.mp k.1)) (· k.2)]; rfl)]
    exact congrArg (fun u => Host.Outcome.next (State.eventEnd u)) (State.modLine_self rfl)
  case candidate =>
    have hstep := Line.candidateStep_eq (t.line n).countStray value (l.config.unmarked value parityBit stopBit)
    rw [hcand, if_neg hsome] at hstep
    refine ⟨fun hg => ?bad, fun hg hfive hlong => ?long, fun hg hshort hmore => ?more, fun hg hshort hdone => ?done⟩
    case bad =>
      rw [State.takeCharacter_of_idle (hengine.trans h) (hstep.trans (if_pos (.inl (hbad hg))))]
      rfl
    case long =>
      rw [State.takeCharacter_of_idle (hengine.trans h) (hstep.trans (if_pos (.inr ⟨hfive, hlong⟩)))]
      rfl
    all_goals
      have hkeep : ¬(l.config.unmarked value parityBit stopBit = false ∨ (frame.length = 5 ∧ 64 < value.toNat)) := by
        rw [hgood.mpr hg]
        exact fun k => k.elim nofun fun k => (hshort k.1).not_gt k.2
      rw [if_neg hkeep] at hstep
    case more =>
      rw [State.takeCharacter_of_idle (f := fun m => m.withCandidate frame) (hengine.trans h)
        (hstep.trans (if_neg fun k => hmore ((frameComplete_iff _).mp k)))]
      rfl
    case done =>
      rw [if_pos ((frameComplete_iff _).mpr hdone)] at hstep
      refine ⟨fun hcorrect => ?_, fun hwrong => ?_⟩
      · rw [State.takeCharacter_of_idle (f := fun m => m.countStrayFrame.dropCandidate) (hengine.trans h)
          (hstep.trans (by rw [if_pos hcorrect])), ← State.modLine_modLine _ _ Line.countStrayFrame]
        rfl
      · rw [State.takeCharacter_of_idle (f := Line.dropCandidate) (hengine.trans h)
          (hstep.trans (by rw [if_neg (by rw [hwrong]; decide)]))]
        rfl
  case noEcho =>
    rw [State.takeCharacter_of_send (hengine.trans h)]
    exact congrArg (fun u => Host.Outcome.next (State.eventEnd u)) (State.modLine_self (Line.echoStep_of_ignored (by rwa [hline]) _ _))
  case echo =>
    rw [State.takeCharacter_of_send (hengine.trans h), hgood.mpr hg]
    exact congrArg (fun u => Host.Outcome.next (State.eventEnd u))
      (State.modLine_congr (Line.echoStep_of_match (by rwa [hline]) (by rwa [hline]) (by rwa [hline])))
  case mismatch =>
    rw [State.takeCharacter_of_send (hengine.trans h)]
    exact congrArg (fun u => Host.Outcome.next (State.eventEnd u))
      (State.modLine_congr (Line.echoStep_of_mismatch (by rwa [hline]) (by rwa [hline]) (by rw [hline]; exact noGood hno)))
  case sof =>
    obtain rfl : value = Config.sof := hsof
    rw [hgood.mpr hg, State.takeCharacter_of_await_sof (hengine.trans h)]
    rfl
  case expired =>
    rw [State.takeCharacter_of_await_noise (hengine.trans h) (noGood hno), if_pos (by rw [hline]; exact hexpired)]
    rfl
  case noise =>
    rw [State.takeCharacter_of_await_noise (hengine.trans h) (noGood hno), if_neg (by rw [hline]; exact hrunning)]
    rfl

/-! ### The frame collected in RECEIVE (R12, R31) -/

/-- The early faults of R12 at CONTROL: a kind that cannot answer the frame sent, or bits 7 and 6 not both zero. -/
theorem badControl_iff (control : Byte) (sync : Bool) :
    badControl control sync = true ↔
      (control.toNat % 8 ≠ 4 ∧ control.toNat % 8 ≠ 6 ∧ (control.toNat % 8 ≠ 5 ∨ sync = true)) ∨ 64 ≤ control.toNat := by
  have hhigh : (control.getLsbD 6 = true ∨ control.getLsbD 7 = true) ↔ 64 ≤ control.toNat := by
    simp only [getLsbD_eq_true_iff]
    omega
  rw [← hhigh]
  simp only [badControl, controlKind, Bool.or_eq_true, Bool.not_eq_true', Bool.or_eq_false_iff, Bool.and_eq_false_imp,
    beq_eq_false_iff_ne, beq_iff_eq, Bool.not_eq_false', or_assoc, and_assoc, ne_eq, Decidable.imp_iff_not_or]

/-- The early faults of R12 at LENGTH. -/
theorem badLength_iff (control length : Byte) :
    badLength control length = true ↔
      64 < length.toNat ∨ (control.toNat % 8 = 5 ∧ length ≠ 1#8) ∨ (control.toNat % 8 = 6 ∧ length ≠ 0#8) := by
  simp [badLength, controlKind, or_assoc]

/-- A character of RECEIVE: the early faults fail the attempt, a complete frame is judged, and another goes on (R12, R31). -/
theorem State.receiveCharacter_eq (s : State) (n : LineId) (value : Byte) (good : Bool) {sent : Frame}
    (hsent : (s.line n).frame = some sent) :
    s.receiveCharacter n value good =
      let frame := (s.line n).received ++ [value]
      if good = false ∨ (frame.length = 3 ∧ badControl value sent.sync = true) ∨
          (frame.length = 5 ∧ badLength (frameByte frame 2) value = true)
      then s.failAttempt n .frameError
      else
        let t := s.modLine n fun l =>
          { l with received := frame, timers := { l.timers with gap := some l.config.interCharacterLimit } }
        if frameComplete frame then t.judgeFrame n else t := by
  simp only [State.receiveCharacter, hsent, Option.any_some, Bool.or_eq_true, Bool.and_eq_true, decide_eq_true_iff,
    Bool.not_eq_true', or_assoc]
  rfl

theorem State.takeCharacter_of_receive {s : State} {n : LineId} (h : (s.line n).engine = .receive) (value : Byte) (good : Bool) :
    s.takeCharacter n value good = s.receiveCharacter n value good := by
  simp [State.takeCharacter, h]

theorem State.gapExpiry_of_none {s : State} {n : LineId}
    (h : (s.line n).timers.gap = none ∨ (s.line n).rxPhase = .inCharacter) : s.gapExpiry n = s := by
  obtain h | h := h <;> simp [State.gapExpiry, h]

/-- The limit that runs out between two characters: an early fault in RECEIVE, and in IDLE the end of a candidate (R12, R22). -/
theorem State.gapExpiry_of_some {s : State} {n : LineId} (hgap : (s.line n).timers.gap ≠ none)
    (hphase : (s.line n).rxPhase ≠ .inCharacter) :
    s.gapExpiry n =
      if (s.line n).engine = .receive then s.failAttempt n .frameError else s.modLine n Line.dropCandidate := by
  have hruns : ((s.line n).timers.gap.isSome && (s.line n).rxPhase != .inCharacter) = true := by
    rw [Bool.and_eq_true, bne_iff_ne]
    exact ⟨Option.isSome_iff_ne_none.mpr hgap, hphase⟩
  rw [State.gapExpiry]
  refine (if_pos hruns).trans ?_
  cases (s.line n).engine <;> rfl

theorem exec_interCharacterLimitExpiry (s : State) (n : LineId) :
    exec (.interCharacterLimitExpiry n) s = .next (s.gapExpiry n).eventEnd := rfl

/-- Settles O46: the early faults are those of R12, and what is left is a complete frame or one to go on with. -/
theorem receivedFrameIsCollected : Obligations.ReceivedFrameIsCollected := by
  refine ⟨fun s n value bits parityBit stopBit sent hbits hstop hengine hphase hsent => ?collect,
    fun s n => ⟨fun hnone => ?none, fun hgap hphase => ⟨fun hengine => ?fail, fun hengine => ?drop⟩⟩⟩
  case collect =>
    intro l t ones frame kind fault complete u
    have hline : t.line n = l.afterHandOver stopBit := State.modLine_line_self s n _
    have hrun : exec (.characterReceived n bits parityBit stopBit) s =
        .next (t.receiveCharacter n value (l.config.unmarked value parityBit stopBit)).eventEnd :=
      congrArg (fun u => Host.Outcome.next (State.eventEnd u))
        ((State.handCharacter_of_some hphase hstop hbits parityBit).trans
          (State.takeCharacter_of_receive (s := t) (by rw [hline]; exact hengine) _ _))
    have hreceived : (t.line n).received = l.received := by rw [hline]; rfl
    have hbad : l.config.unmarked value parityBit stopBit = false ↔
        stopBit = false ∨ (l.config.parity = .even ∧ ones % 2 = 1) ∨ (l.config.parity = .odd ∧ ones % 2 = 0) := by
      have hgood : l.config.unmarked value parityBit stopBit = true ↔ _ := l.config.unmarked_iff hbits parityBit stopBit
      rw [← Bool.not_eq_true, hgood, not_and_or, Bool.not_eq_true]
      refine or_congr_right ?_
      cases l.config.parity <;> simp [ones]
    have hcontrol : frame.length = 3 → frame.getD 2 0#8 = value := fun hlength => by
      have hshort : l.received.length = 2 := by simpa [frame] using hlength
      simp [frame, hshort, List.getD]
    have hfault : (l.config.unmarked value parityBit stopBit = false ∨ (frame.length = 3 ∧ badControl value sent.sync = true) ∨
        (frame.length = 5 ∧ badLength (frameByte frame 2) value = true)) ↔ fault := by
      have hthree : (frame.length = 3 ∧ badControl value sent.sync = true) ↔
          (frame.length = 3 ∧ ((kind ≠ 4 ∧ kind ≠ 6 ∧ (kind ≠ 5 ∨ sent.sync = true)) ∨ 64 ≤ value.toNat)) :=
        and_congr_right fun hlength => by rw [badControl_iff]; simp only [kind, hcontrol hlength]
      rw [hbad, hthree, badLength_iff, or_assoc, or_assoc]
      rfl
    rw [hrun, State.receiveCharacter_eq t n value _ (by rw [hline]; exact hsent), hreceived]
    refine ⟨fun h => ?_, fun h hmore => ?_, fun h hdone => ?_⟩
    · exact congrArg (fun u => Host.Outcome.next (State.eventEnd u)) (if_pos (hfault.mpr h))
    · refine congrArg (fun u => Host.Outcome.next (State.eventEnd u)) ((if_neg fun k => h (hfault.mp k)).trans ?_)
      exact if_neg fun k => hmore ((frameComplete_iff _).mp k)
    · refine congrArg (fun u => Host.Outcome.next (State.eventEnd u)) ((if_neg fun k => h (hfault.mp k)).trans ?_)
      exact if_pos ((frameComplete_iff _).mpr hdone)
  case none => rw [exec_interCharacterLimitExpiry, State.gapExpiry_of_none hnone]
  case fail => rw [exec_interCharacterLimitExpiry, State.gapExpiry_of_some hgap hphase, if_pos hengine]
  case drop =>
    rw [exec_interCharacterLimitExpiry, State.gapExpiry_of_some hgap hphase, if_neg hengine]
    rfl

/-! ### The level of RXn and the break (R3, R4, R23, R36) -/

theorem exec_rxnLevelChange (s : State) (n : LineId) (high : Bool) :
    exec (.rxnLevelChange n high) s = .next (s.modLine n fun l => l.rxLevel high) := rfl

theorem Line.rise_eq (l : Line) :
    l.rise = { l with
      rxHigh := true, lowSinceEdge := false
      rxPhase := if l.rxPhase = .waitHigh ∨ l.rxPhase = .lowAfterCharacter ∨ l.rxPhase = .breakHeld then .waitEdge else l.rxPhase
      timers := { l.timers with quiet := if l.engine = .quiet then some l.config.quietGap else l.timers.quiet } } := by
  have hphase : l.rise.rxPhase =
      if l.rxPhase = .waitHigh ∨ l.rxPhase = .lowAfterCharacter ∨ l.rxPhase = .breakHeld then .waitEdge else l.rxPhase := by
    rw [Line.rise]
    cases l.rxPhase <;> rfl
  rw [← hphase]
  by_cases hquiet : l.engine = .quiet <;> simp [Line.rise, hquiet]

theorem Line.fall_eq (l : Line) :
    l.fall = { l with
      rxHigh := false, lowSinceEdge := l.rxPhase == .waitEdge
      rxPhase := if l.rxPhase = .waitEdge then .inCharacter else l.rxPhase
      timers := { l.timers with quiet := if l.engine = .quiet then none else l.timers.quiet } } := by
  by_cases hquiet : l.engine = .quiet <;> simp [Line.fall, hquiet, beq_eq_decide]

theorem exec_breakDetected (s : State) (n : LineId) : exec (.breakDetected n) s = .next (s.breakReport n).eventEnd := rfl

theorem State.breakReport_of_none {s : State} {n : LineId} (h : (s.line n).rxPhase ≠ .lowAfterCharacter) :
    s.breakReport n = s := if_neg h

/-- The report of a break: the flag, the counter and the event, then what it does to the engine (R4, R12, R22, R36). -/
theorem State.breakReport_of_low {s : State} {n : LineId} (h : (s.line n).rxPhase = .lowAfterCharacter) :
    s.breakReport n =
      let t := (s.modLine n fun l =>
        { l with
          rxPhase := .breakHeld, breakFlag := true, eventBreak := true
          counters := { l.counters with breaks := satSucc Config.counterMax l.counters.breaks } }).latch .lineEvent
      if (s.line n).engine = .receive then t.failAttempt n .frameError
      else if (s.line n).engine = .idle then t.modLine n Line.dropCandidate
      else t := by
  rw [State.breakReport, if_pos h, State.lineEvent, State.modLine_modLine]
  cases (s.line n).engine <;> rfl

/-- Settles O47: the level held changes nothing, a rise and a fall have one update each, and a break its report. -/
theorem receiverFollowsItsInput : Obligations.ReceiverFollowsItsInput := by
  refine ⟨fun s n high => ⟨fun hheld => ?held, fun hlow hhigh => ?rise, fun hhigh hlow => ?fall⟩,
    fun s n => ⟨fun hnone => ?noBreak, fun hbreak => ⟨fun hengine => ?receive, fun hengine => ?idle, fun hreceive hidle => ?other⟩⟩⟩
  case held =>
    rw [exec_rxnLevelChange, State.modLine_self]
    exact if_pos hheld
  case rise =>
    rw [exec_rxnLevelChange]
    refine congrArg _ (State.modLine_congr ?_)
    subst hhigh
    exact (if_neg (by rw [hlow]; decide)).trans (Line.rise_eq _)
  case fall =>
    rw [exec_rxnLevelChange]
    refine congrArg _ (State.modLine_congr ?_)
    subst hlow
    exact (if_neg (by rw [hhigh]; decide)).trans (Line.fall_eq _)
  case noBreak => rw [exec_breakDetected, State.breakReport_of_none hnone]
  all_goals rw [exec_breakDetected, State.breakReport_of_low hbreak]
  case receive => exact congrArg (fun u => Host.Outcome.next (State.eventEnd u)) (if_pos hengine)
  case idle =>
    exact congrArg (fun u => Host.Outcome.next (State.eventEnd u)) ((if_neg (by rw [hengine]; decide)).trans (if_pos hengine))
  case other =>
    exact congrArg (fun u => Host.Outcome.next (State.eventEnd u)) ((if_neg hreceive).trans (if_neg hidle))

/-! ### The response timer and the false start (R29, R30, R32) -/

theorem exec_responseTimerExpiry (s : State) (n : LineId) :
    exec (.responseTimerExpiry n) s = .next (s.responseExpiry n).eventEnd := rfl

theorem State.responseExpiry_of_await {s : State} {n : LineId} {bits : Nat} (htimer : (s.line n).timers.response = .running bits)
    (hengine : (s.line n).engine = .await) :
    s.responseExpiry n =
      if (s.line n).rxPhase = .inCharacter then s.modLine n Line.noteExpiry else s.failAttempt n .timeout := by
  simp [State.responseExpiry, htimer, hengine]

theorem State.responseExpiry_of_receive {s : State} {n : LineId} {bits : Nat} (htimer : (s.line n).timers.response = .running bits)
    (hengine : (s.line n).engine = .receive) : s.responseExpiry n = s.modLine n Line.noteExpiry := by
  simp [State.responseExpiry, htimer, hengine]

theorem State.responseExpiry_of_none {s : State} {n : LineId}
    (h : ((s.line n).engine ≠ .await ∧ (s.line n).engine ≠ .receive) ∨ (s.line n).timers.response = .stopped ∨
      (s.line n).timers.response = .expired) : s.responseExpiry n = s := by
  obtain ⟨hawait, hreceive⟩ | h | h := h
  · simp only [State.responseExpiry]
    split
    · exact absurd ‹_› hawait
    · exact absurd ‹_› hreceive
    · rfl
  · simp [State.responseExpiry, h]
  · simp [State.responseExpiry, h]

theorem exec_falseStart (s : State) (n : LineId) : exec (.falseStart n) s = .next (s.falseStartEvent n).eventEnd := rfl

/-- A start that proves false: the receiver waits for the next edge, and an expiry held for it takes effect (R3, R30). -/
theorem State.falseStartEvent_of_high {s : State} {n : LineId} (hphase : (s.line n).rxPhase = .inCharacter)
    (hhigh : (s.line n).rxHigh = true) :
    s.falseStartEvent n =
      let t := s.modLine n fun l => { l with rxPhase := .waitEdge }
      if (s.line n).engine = .await ∧ (s.line n).timers.response = .expired then t.failAttempt n .timeout else t := by
  rw [State.falseStartEvent]
  refine (if_pos ⟨hphase, hhigh⟩).trans ?_
  cases (s.line n).engine <;> cases (s.line n).timers.response <;> rfl

theorem State.falseStartEvent_of_none {s : State} {n : LineId}
    (h : (s.line n).rxPhase ≠ .inCharacter ∨ (s.line n).rxHigh = false) : s.falseStartEvent n = s :=
  if_neg fun ⟨hphase, hhigh⟩ => h.elim (· hphase) fun hlow => Bool.false_ne_true (hlow.symm.trans hhigh)

/-- Settles O48: the timer's expiry by engine and receiver, then the false start. -/
theorem responseTimerExpires : Obligations.ResponseTimerExpires := by
  intro s n l noted t
  refine ⟨fun bits htimer => ⟨fun hengine hphase => ?fail, fun hengine hphase => ?held, fun hengine => ?noted⟩, fun h => ?none,
    fun h => ?noStart, fun hphase hhigh => ⟨fun hengine hexpired => ?late, fun h => ?false⟩⟩
  case fail => rw [exec_responseTimerExpiry, State.responseExpiry_of_await htimer hengine, if_neg hphase]
  case held =>
    rw [exec_responseTimerExpiry, State.responseExpiry_of_await htimer hengine, if_pos hphase]
    rfl
  case noted =>
    rw [exec_responseTimerExpiry, State.responseExpiry_of_receive htimer hengine]
    rfl
  case none => rw [exec_responseTimerExpiry, State.responseExpiry_of_none h]
  case noStart => rw [exec_falseStart, State.falseStartEvent_of_none h]
  all_goals rw [exec_falseStart, State.falseStartEvent_of_high hphase hhigh]
  case late => exact congrArg (fun u => Host.Outcome.next (State.eventEnd u)) (if_pos ⟨hengine, hexpired⟩)
  case false =>
    exact congrArg (fun u => Host.Outcome.next (State.eventEnd u))
      (if_neg fun k => h.elim (· k.1) (· k.2))

end Sys2Proof.Machine
end

section
/-! PROOFS. What a line sends and how an attempt ends: the engine with no work left (R39), a failed attempt and its budget (R46, R47), the
waits before a frame (R23 to R25), its characters and TRAIL (R1, R26 to R29), and its judgement (R5 to R14, R49 to R60). -/

namespace Sys2Proof.Machine

/-! ### A line that has no work left (R39) -/

theorem Line.noWorkLeft_iff (l : Line) :
    l.noWorkLeft = true ↔ l.stopping ≠ none ∧ l.engine = .idle ∧ l.exchange = none ∧ l.prefetched = [] := by
  simp [Line.noWorkLeft, Option.isSome_iff_ne_none, and_assoc]

theorem exec_stoppingLineOff (s : State) (n : LineId) :
    exec (.stoppingLineOff n) s = .next (if (s.line n).noWorkLeft then (s.enterOff n).eventEnd else s) := rfl

/-- With no exchange to leave, the entry to OFF is the engine's alone (R39). -/
theorem State.enterOff_of_none {s : State} {n : LineId} (h : (s.line n).exchange = none) :
    s.enterOff n = (s.modLine n Line.off).deferredApply := by
  rw [State.enterOff, State.leaveExchange, h]

/-- A deferred command whose condition holds applies and claims its DONE (R158). -/
theorem State.deferredApply_of_ready {s : State} {tag : Half} {w : AdminWait} (hadmin : s.admin = .deferred tag w)
    (hready : w.ready s = true) :
    s.deferredApply = (w.apply s).adminClaim (adminCompletion tag w.code .done 0 0 0 w.stationState) := by
  simp [State.deferredApply, hadmin, hready]

theorem State.deferredApply_of_notReady {s : State} (h : ∀ tag w, s.admin = .deferred tag w → w.ready s = false) :
    s.deferredApply = s := by
  cases hadmin : s.admin with
  | deferred tag w => simp [State.deferredApply, hadmin, h tag w hadmin]
  | idle => simp [State.deferredApply, hadmin]
  | writing tag w => simp [State.deferredApply, hadmin]
  | claiming c => simp [State.deferredApply, hadmin]

/-- Settles O44: the line that is left is the engine's OFF, and the STOP LINE that waits for it is then ready. -/
theorem stoppingLineGoesOff : Obligations.StoppingLineGoesOff := by
  intro s n workless
  rw [exec_stoppingLineOff]
  refine ⟨fun h => ?work, fun h => ?off⟩
  case work => rw [if_neg fun k => h ((s.line n).noWorkLeft_iff.mp k)]
  case off =>
    have ⟨_, _, hexchange, hprefetched⟩ := h
    refine ⟨(s.line n).off, ?_, rfl, rfl, rfl, rfl, rfl, rfl, rfl, rfl, rfl, rfl, rfl, rfl, rfl, rfl, rfl, rfl, hprefetched, rfl,
      rfl, rfl, fun tag hadmin => State.deferredApply_of_ready (s := s.modLine n fun _ => (s.line n).off) hadmin ?_⟩
    · rw [if_pos ((s.line n).noWorkLeft_iff.mpr h), State.enterOff_of_none hexchange,
        State.modLine_congr (g := fun _ => (s.line n).off) rfl]
    · exact beq_iff_eq.mpr (congrArg Line.engine (State.modLine_line_self s n _))

/-! ### A failed attempt (R24, R46, R47) -/

/-- The exchange after an attempt that failed: counted if it was not yet, the kind the last and, with none before it, the first (R46, R47). -/
theorem Exchange.recordFailure_eq (x : Exchange) (kind : FailureKind) (counted : Bool) :
    (if counted then x else x.countAttempt).recordFailure kind =
      { x with
        attemptsUsed := if counted then x.attemptsUsed else x.attemptsUsed + 1
        attemptsTotal := if counted then x.attemptsTotal else satSucc 15 x.attemptsTotal
        lastFailure := some kind, firstFailure := some (x.firstFailure.getD kind) } := by
  cases counted <;> rfl

/-- A failed attempt is made again within the budget, and ends the exchange at it (R46, R47). -/
theorem State.failAttempt_eq {s : State} {n : LineId} {x : Exchange} (kind : FailureKind) (h : (s.line n).exchange = some x) :
    s.failAttempt n kind =
      let y := (if (s.line n).counted then x else x.countAttempt).recordFailure kind
      if y.attemptsUsed < y.budget then s.modLine n fun l => { l with exchange := some y }.newAttempt
      else (s.modLine n fun l => { l with exchange := some y }).endExchange n kind.status (y.firstFailure.getD kind).status.code := by
  simp only [State.failAttempt, h, State.modLine_modLine]

theorem exec_jamLimitExpiry (s : State) (n : LineId) : exec (.jamLimitExpiry n) s = .next (s.jamExpiry n).eventEnd := rfl

/-- Settles O50: the exchange after a failure is `recordFailure_eq`, and the budget decides between the two branches. -/
theorem attemptsDrawOnABudget : Obligations.AttemptsDrawOnABudget := by
  refine ⟨fun s n kind x hx => ?fail, fun s n => ⟨fun h => ?none, fun hengine hjam => ?jam⟩⟩
  case fail =>
    intro l used total first y
    have hfirst : x.firstFailure.getD kind = first := by
      simp only [first]
      cases x.firstFailure <;> rfl
    have hy : (if (s.line n).counted then x else x.countAttempt).recordFailure kind = y := by
      rw [Exchange.recordFailure_eq, hfirst]
      rfl
    have hfail := State.failAttempt_eq kind hx
    rw [hy] at hfail
    refine ⟨fun hmore => ?again, fun hover => ?last⟩
    case again => exact hfail.trans (if_pos (Nat.lt_succ_of_le hmore))
    case last =>
      refine (hfail.trans (if_neg (Nat.not_lt.mpr hover))).trans ?_
      refine congrArg₂ ((s.modLine n fun m => { m with exchange := some y }).endExchange n) ?_ ?_
      · cases kind <;> rfl
      · change first.status.code = _
        generalize first = k
        cases k <;> rfl
  case none =>
    rw [exec_jamLimitExpiry]
    refine congrArg (fun u => Host.Outcome.next (State.eventEnd u)) (if_neg fun ⟨hquiet, hjam⟩ => ?_)
    exact h.elim (· hquiet) fun hnone => Option.isSome_iff_ne_none.mp hjam hnone
  case jam =>
    rw [exec_jamLimitExpiry]
    refine congrArg (fun u => Host.Outcome.next (State.eventEnd u)) ((if_pos ⟨hengine, Option.isSome_iff_ne_none.mpr hjam⟩).trans ?_)
    rw [State.lineEvent, State.modLine_modLine]
    rfl

/-! ### The waits before a frame is sent (R23, R25, R33) -/

theorem exec_quietTimerExpiry (s : State) (n : LineId) : exec (.quietTimerExpiry n) s = .next (s.quietExpiry n) := rfl
theorem exec_leadTimerExpiry (s : State) (n : LineId) : exec (.leadTimerExpiry n) s = .next (s.leadExpiry n) := rfl
theorem exec_backoffTimerExpiry (s : State) (n : LineId) : exec (.backoffTimerExpiry n) s = .next (s.backoffExpiry n) := rfl

/-- The first character of every frame is SOF (R5). -/
theorem Line.frameCharacters_zero {l : Line} {x : Exchange} {f : Frame} (hx : l.exchange = some x) (hf : l.frame = some f) :
    l.frameCharacters[0]? = some Config.sof := by
  rw [Line.frameCharacters, hx, hf]
  rfl

/-- Entry to SEND with a frame prepared: SOF is in transmission, and the attempt is counted unless it is a resend (R26, R44, R46). -/
theorem Line.enterSend_eq {l : Line} {x : Exchange} {f : Frame} (hx : l.exchange = some x) (hf : l.frame = some f) :
    l.enterSend =
      { l with
        engine := .send, timers := .stopped, received := [], candidate := [], mismatch := false, sentCount := 0
        counted := l.counted || !l.resend, txCharacter := some Config.sof
        echoPending := if l.config.echoCheck then some Config.sof else none
        exchange := some
          { x with
            frameSent := true
            attemptsUsed := if l.resend then x.attemptsUsed else x.attemptsUsed + 1
            attemptsTotal := if l.resend then x.attemptsTotal else satSucc 15 x.attemptsTotal } } := by
  cases hresend : l.resend <;> simp [Line.enterSend, Line.transmit, Line.leave, Line.frameCharacters, hx, hf, hresend,
    Exchange.countAttempt, Frame.characters]

/-- Settles O52: each expiry is the engine's entry to its next state. -/
theorem lineWaitsBeforeItSends : Obligations.LineWaitsBeforeItSends := by
  intro s n l
  refine ⟨fun x f hx hf => ?sends, fun hengine htimer => ?backoff, fun h => ?noQuiet, fun h => ?noLead, fun h => ?noBackoff⟩
  case sends =>
    intro lead send
    have hsend : s.modLine n Line.enterSend = send := State.modLine_congr (Line.enterSend_eq hx hf)
    have hlead : lead.modLine n Line.enterSend = send := by
      rw [← hsend, State.modLine_modLine]
      exact State.modLine_congr rfl
    refine ⟨fun hengine htimer => ?_, fun hengine htimer => ?_⟩
    · rw [exec_quietTimerExpiry, State.quietExpiry, if_pos ⟨hengine, Option.isSome_iff_ne_none.mpr htimer⟩, ← hlead]
      rfl
    · rw [exec_leadTimerExpiry, State.leadExpiry, if_pos ⟨hengine, Option.isSome_iff_ne_none.mpr htimer⟩, ← hsend]
  case backoff =>
    rw [exec_backoffTimerExpiry, State.backoffExpiry, if_pos ⟨hengine, Option.isSome_iff_ne_none.mpr htimer⟩]
    rfl
  case noQuiet =>
    refine congrArg Host.Outcome.next (if_neg fun ⟨hengine, htimer⟩ => ?_)
    exact h.elim (· hengine) (Option.isSome_iff_ne_none.mp htimer)
  case noLead =>
    refine congrArg Host.Outcome.next (if_neg fun ⟨hengine, htimer⟩ => ?_)
    exact h.elim (· hengine) (Option.isSome_iff_ne_none.mp htimer)
  case noBackoff =>
    refine congrArg Host.Outcome.next (if_neg fun ⟨hengine, htimer⟩ => ?_)
    exact h.elim (· hengine) (Option.isSome_iff_ne_none.mp htimer)

/-! ### The levels of TXn and DEn (R1, R19) -/

theorem Line.driverEnable_iff (l : Line) :
    l.driverEnable = true ↔ l.engine = .lead ∨ l.engine = .send ∨ l.engine = .trail := by
  simp [Line.driverEnable, or_assoc]

theorem parityBit_length (p : Parity) (b : Byte) : (parityBit p b).length = if p = .none then 0 else 1 := by
  cases p <;> rfl

/-- The parity bit is the one that passes the receiver's test of R1. -/
theorem exists_parityBit {p : Parity} (h : p ≠ .none) (b : Byte) :
    ∃ v, parityBit p b = [v] ∧ parityFails p b v = false := by
  cases p with
  | none => exact absurd rfl h
  | even => exact ⟨_, rfl, by simp [parityFails, parityBit]⟩
  | odd => exact ⟨_, rfl, by simp [parityFails, parityBit]⟩

theorem LineConfig.characterLevels_length (c : LineConfig) (b : Byte) :
    (c.characterLevels b).length = c.characterBits := by
  simp only [LineConfig.characterLevels, LineConfig.characterBits, List.length_cons, List.length_append, List.length_map,
    parityBit_length, List.length_replicate, List.length_nil]
  omega

theorem LineConfig.characterLevels_data (c : LineConfig) (b : Byte) (k : Fin 8) :
    (c.characterLevels b).getD (k.val + 1) true = b.getLsbD k := by
  match k with
  | 0 | 1 | 2 | 3 | 4 | 5 | 6 | 7 => rfl

theorem LineConfig.characterLevels_parity {c : LineConfig} {b : Byte} {v : Bool} (h : parityBit c.parity b = [v]) :
    (c.characterLevels b).getD 9 true = v := by
  rw [LineConfig.characterLevels, h]
  rfl

/-- After the parity bit TXn is high, in the stop bits and behind them (R1). -/
theorem LineConfig.characterLevels_stop (c : LineConfig) (b : Byte) {k : Nat} (h : 9 + (parityBit c.parity b).length ≤ k) :
    (c.characterLevels b).getD k true = true := by
  have hlength : (false :: ([0, 1, 2, 3, 4, 5, 6, 7].map b.getLsbD ++ parityBit c.parity b)).length ≤ k := by
    simp only [List.length_cons, List.length_append, List.length_map, List.length_nil]
    omega
  rw [LineConfig.characterLevels, ← List.cons_append, List.getD_append_right _ _ _ _ hlength]
  simp only [List.getD, List.getElem?_replicate]
  split <;> rfl

theorem Line.txLevel_of_some {l : Line} {b : Byte} (h : l.txCharacter = some b) (k : Nat) :
    l.txLevel k = (l.config.characterLevels b).getD k true := by
  rw [Line.txLevel, Line.txBits, h]

/-! ### The characters of a frame and TRAIL (R26 to R29, R41) -/

theorem exec_characterSent (s : State) (n : LineId) : exec (.characterSent n) s = .next (s.sentEvent n).eventEnd := rfl
theorem exec_trailTimerExpiry (s : State) (n : LineId) : exec (.trailTimerExpiry n) s = .next (s.trailExpiry n).eventEnd := rfl

/-- The three rows at the end of a character: an echo still awaited, the end of the sending, and the next character (R26, R27, R41). -/
theorem State.characterEnd_eq {s : State} {n : LineId} {x : Exchange} {f : Frame} (hx : (s.line n).exchange = some x)
    (hf : (s.line n).frame = some f) :
    s.characterEnd n =
      let l := s.line n
      let done := l.sentCount + 1
      if l.echoPending ≠ none then (s.modLine n fun m => { m.echoMismatch with sentCount := done }).toTrail n
      else if l.mismatch = true ∨ l.cutting = true ∨ (f.characters x.address).length ≤ done then
        (s.modLine n fun m => { m with sentCount := done }).toTrail n
      else s.modLine n fun m =>
        { m with
          sentCount := done, txCharacter := (f.characters x.address)[done]?
          echoPending := if m.config.echoCheck then (f.characters x.address)[done]? else none } := by
  have hchars : (s.line n).frameCharacters = f.characters x.address := by rw [Line.frameCharacters, hx, hf]
  simp only [State.characterEnd, hchars, Option.isSome_iff_ne_none, Bool.or_eq_true, decide_eq_true_iff, or_assoc]
  refine ite_congr rfl (fun _ => rfl) fun _ => ite_congr rfl (fun _ => rfl) fun _ => State.modLine_congr ?_
  rw [Line.transmit, hchars]

theorem State.toTrail_eq (s : State) (n : LineId) :
    s.toTrail n =
      if (s.line n).config.trailDelay = 0 then (s.modLine n Line.enterTrail).trailEnd n else s.modLine n Line.enterTrail := rfl

theorem State.trailEnd_of_cut {s : State} {n : LineId} (h : (s.line n).cutting = true) : s.trailEnd n = s.cutEnd n := if_pos h

theorem State.trailEnd_of_mismatch {s : State} {n : LineId} (hcut : (s.line n).cutting = false) (h : (s.line n).mismatch = true) :
    s.trailEnd n = s.failAttempt n .contention := by
  simp [State.trailEnd, hcut, h]

/-- A frame sent whole: a broadcast has ended, another awaits its response (R28, R29). -/
theorem State.trailEnd_of_sent {s : State} {n : LineId} {x : Exchange} (hcut : (s.line n).cutting = false)
    (hmismatch : (s.line n).mismatch = false) (hx : (s.line n).exchange = some x) :
    s.trailEnd n = if x.source = .broadcast then s.endExchange n .okSent 0 else s.modLine n Line.enterAwait := by
  simp [State.trailEnd, hcut, hmismatch, hx]

/-- Settles O53: the levels are read from the character's list, and each end is one row of R26 to R28. -/
theorem frameIsSentCharacterByCharacter : Obligations.FrameIsSentCharacterByCharacter := by
  refine ⟨fun l => ⟨l.driverEnable_iff, fun h k => ?idleHigh, rfl, fun b hb => ?levels⟩, fun s n x f hx hf => ?sending⟩
  case idleHigh =>
    rw [Line.txLevel, Line.txBits, h]
    rfl
  case levels =>
    intro ones
    have hlevel := Line.txLevel_of_some hb
    refine ⟨?length, hlevel 0, fun k => ?data, fun hnone k hk => ?stopNone, fun heven => ?even, fun hodd => ?odd,
      fun hparity k hk => ?stop⟩
    case length => rw [Line.txBits, hb, LineConfig.characterLevels_length]
    case data => rw [hlevel, LineConfig.characterLevels_data]
    case stopNone => rw [hlevel, LineConfig.characterLevels_stop _ _ (by rwa [parityBit_length, if_pos hnone])]
    case even =>
      obtain ⟨v, hv, hpass⟩ := exists_parityBit (p := l.config.parity) (by rw [heven]; decide) b
      rw [hlevel, LineConfig.characterLevels_parity hv]
      rw [parityFails_eq, heven] at hpass
      exact Nat.mod_two_ne_one.mp (of_decide_eq_false hpass)
    case odd =>
      obtain ⟨v, hv, hpass⟩ := exists_parityBit (p := l.config.parity) (by rw [hodd]; decide) b
      rw [hlevel, LineConfig.characterLevels_parity hv]
      rw [parityFails_eq, hodd] at hpass
      exact Nat.mod_two_ne_zero.mp (of_decide_eq_false hpass)
    case stop => rw [hlevel, LineConfig.characterLevels_stop _ _ (by rwa [parityBit_length, if_neg hparity])]
  case sending =>
    intro l count done trail stopped run
    have hend := State.characterEnd_eq hx hf
    have hrun : l.engine = .send → l.txCharacter ≠ none → run = .next (s.characterEnd n).eventEnd := fun hengine hchar =>
      congrArg (fun u => Host.Outcome.next (State.eventEnd u)) (if_pos ⟨hengine, Option.isSome_iff_ne_none.mpr hchar⟩)
    have htrail : ∀ u : State, (u.line n).config = l.config → trail u = u.toTrail n := fun u hu => by
      rw [State.toTrail_eq, hu]
      rfl
    refine ⟨fun h => ?noneSent, fun hengine hchar => ⟨fun hecho hmismatch hcut hmore => ?next, fun hecho hlast => ?last, fun hecho => ?echo⟩,
      fun h => ?noTrail, fun hengine htimer => ?ends⟩
    case noneSent =>
      refine congrArg (fun u => Host.Outcome.next (State.eventEnd u)) (if_neg fun ⟨hsend, hchar⟩ => ?_)
      exact h.elim (· hsend) (Option.isSome_iff_ne_none.mp hchar)
    case next =>
      rw [hrun hengine hchar, hend]
      refine congrArg (fun u => Host.Outcome.next (State.eventEnd u)) ((if_neg (not_not.mpr hecho)).trans (if_neg ?_))
      rintro (h | h | h)
      · exact Bool.false_ne_true (hmismatch.symm.trans h)
      · exact Bool.false_ne_true (hcut.symm.trans h)
      · exact absurd h (Nat.not_le.mpr hmore)
    case last =>
      rw [hrun hengine hchar, hend, htrail stopped (by rw [State.modLine_line_self])]
      exact congrArg (fun u => Host.Outcome.next (State.eventEnd u)) ((if_neg (not_not.mpr hecho)).trans (if_pos hlast))
    case echo =>
      rw [hrun hengine hchar, hend, State.modLine_modLine, htrail _ (by rw [State.modLine_line_self])]
      exact congrArg (fun u => Host.Outcome.next (State.eventEnd u)) (if_pos hecho)
    case noTrail =>
      refine congrArg (fun u => Host.Outcome.next (State.eventEnd u)) (if_neg fun ⟨htrail, htimer⟩ => ?_)
      exact h.elim (· htrail) (Option.isSome_iff_ne_none.mp htimer)
    case ends =>
      intro last
      have hlast : last = .next (s.trailEnd n).eventEnd :=
        congrArg (fun u => Host.Outcome.next (State.eventEnd u)) (if_pos ⟨hengine, Option.isSome_iff_ne_none.mpr htimer⟩)
      refine ⟨hlast, fun hcut hdevice => ?cut, fun hcut hdevice => ?faulted, fun hcut hmismatch => ?mismatch,
        fun hcut hmismatch hsource => ?broadcast, fun hcut hmismatch hsource => ?await⟩
      case cut => rw [hlast, State.trailEnd_of_cut hcut, State.cutEnd, if_neg hdevice]
      case faulted => rw [hlast, State.trailEnd_of_cut hcut, State.cutEnd, if_pos hdevice]
      case mismatch => rw [hlast, State.trailEnd_of_mismatch hcut hmismatch]
      case broadcast => rw [hlast, State.trailEnd_of_sent hcut hmismatch hx, if_pos hsource]
      case await =>
        rw [hlast, State.trailEnd_of_sent hcut hmismatch hx, if_neg hsource]
        have htime : ((s.line n).exchange.elim 0 fun y => y.responseTimeout) = x.responseTimeout := by
          rw [hx]
          rfl
        refine congrArg (fun u => Host.Outcome.next (State.eventEnd u)) (State.modLine_congr ?_)
        rw [Line.enterAwait, htime]
        rfl

/-! ### What a judgement does (R31, R49 to R60, R77) -/

/-- The exchange an engine holds is given its new record. -/
theorem State.modExchange_of_some {s : State} {n : LineId} {x : Exchange} (h : (s.line n).exchange = some x) (f : Exchange → Exchange) :
    s.modExchange n f = s.modLine n fun l => { l with exchange := some (f x) } := by
  refine State.modLine_congr ?_
  rw [h]
  rfl

theorem State.judgeFrame_of_some {s : State} {n : LineId} {x : Exchange} {sent : Frame} (hx : (s.line n).exchange = some x)
    (hsent : (s.line n).frame = some sent) :
    s.judgeFrame n = s.actOn n x sent (judge (s.line n).received x.address sent) := by
  rw [State.judgeFrame, hx, hsent]

theorem State.discardStale_eq (s : State) (n : LineId) :
    s.discardStale n =
      if (s.line n).timers.response = .expired then s.failAttempt n .timeout
      else s.modLine n fun l => { l with engine := .await, received := [], timers := { l.timers with gap := none } } := by
  rw [State.discardStale]
  cases (s.line n).timers.response <;> rfl

theorem State.acceptBusy_of_within {s : State} {n : LineId} {x : Exchange} (hx : (s.line n).exchange = some x)
    (h : x.busyCount + 1 ≤ (s.line n).config.busyLimit) :
    s.acceptBusy n x =
      s.modLine n fun l => { l with exchange := some { x with busyCount := x.busyCount + 1 } }.enterBackoff := by
  rw [State.acceptBusy, if_pos h, State.modExchange_of_some hx, State.modLine_modLine]

theorem State.acceptBusy_of_beyond {s : State} {n : LineId} {x : Exchange} (hx : (s.line n).exchange = some x)
    (h : (s.line n).config.busyLimit < x.busyCount + 1) :
    s.acceptBusy n x =
      (s.modLine n fun l => { l with exchange := some { x with busyCount := x.busyCount + 1 } }).endExchange n .busyLimit 0 := by
  rw [State.acceptBusy, if_neg (Nat.not_le.mpr h), State.modExchange_of_some hx]

theorem Station.acceptResponse_refuse (st : Station) (eventPending : Bool) :
    st.acceptResponse true eventPending =
      { st with toggle := !st.toggle, eventPending := eventPending || st.eventPending } := by
  cases eventPending <;> rfl

theorem Station.acceptResponse_reply (st : Station) (eventPending : Bool) :
    st.acceptResponse false eventPending = { st with toggle := !st.toggle, eventPending := eventPending } := by
  cases eventPending <;> rfl

theorem State.acceptRefuse_of_station {s : State} {x : Exchange} {k : SlotId} (h : x.station = some k) (n : LineId) (reason : Byte)
    (eventPending : Bool) :
    s.acceptRefuse n x reason eventPending =
      (s.modStation k fun st => { st with toggle := !st.toggle, eventPending := eventPending || st.eventPending }).endExchange n
        .refused reason := by
  simp only [State.acceptRefuse, h, Station.acceptResponse_refuse]

theorem State.acceptSyncReply_of_station {s : State} {x : Exchange} {k : SlotId} (h : x.station = some k) (n : LineId) :
    s.acceptSyncReply n x =
      if x.source = .probe then (s.modStation k Station.acceptSync).endExchange n .ok 0
      else (s.modStation k Station.acceptSync).prepareRequest n := by
  rw [State.acceptSyncReply, h]

theorem State.acceptReply_of_station {s : State} {x : Exchange} {k : SlotId} (h : x.station = some k) (n : LineId) (sent : Frame)
    (payload : List Byte) (more eventPending : Bool) :
    s.acceptReply n x sent payload more eventPending =
      (((s.modLine n fun l => { l with exchange := some { x with segmentsDone := x.segmentsDone + 1 } }).modStation k
        fun st => { st with toggle := !st.toggle, eventPending := eventPending })).takeReply n
          { x with segmentsDone := x.segmentsDone + 1 } sent payload more := by
  simp only [State.acceptReply, h, Station.acceptResponse_reply]

/-- The acknowledged segment of a bulk write, then the next one under a new budget, or the end (R60). -/
theorem State.segmentAcknowledged_eq {s : State} {n : LineId} {x : Exchange} (hx : (s.line n).exchange = some x) (sent : Frame) :
    s.segmentAcknowledged n sent =
      let z := { x with delivered := x.delivered + sent.payload.length, residue := x.residue - sent.payload.length }
      if sent.more then (s.modLine n fun l => { l with exchange := some z.newBudget }).prepareRequest n
      else (s.modLine n fun l => { l with exchange := some z }).endExchange n .ok 0 := by
  have hz := State.modExchange_of_some hx fun y =>
    { y with delivered := y.delivered + sent.payload.length, residue := y.residue - sent.payload.length }
  rw [State.segmentAcknowledged, hz,
    State.modExchange_of_some (x := { x with delivered := x.delivered + sent.payload.length,
                                             residue := x.residue - sent.payload.length }) (by rw [State.modLine_line_self]),
    State.modLine_modLine]

theorem Exchange.replyNext_eq (x : Exchange) (length room : Nat) (more : Bool) :
    x.replyNext length room more =
      if room < length then .finish .truncated
      else if x.bulkRead = false ∨ more = false then .finish .ok
      else if x.segmentsDone = x.maxSegments then .finish .segmentLimit
      else .continueRead := by
  rw [Exchange.replyNext]
  cases x.bulkRead <;> cases more <;> simp

/-- A reply to a host buffer: its bytes count into the residue and what fits is written (R57, R58). -/
theorem State.takeReply_of_buffer {s : State} {n : LineId} {x : Exchange} {address : Word} {capacity : Nat}
    (hx : (s.line n).exchange = some x) (hdest : x.destination = .buffer address capacity) (sent : Frame) (payload : List Byte)
    (more : Bool) :
    s.takeReply n x sent payload more =
      (s.modLine n fun l => { l with exchange := some { x with residue := x.residue + payload.length } }).writeReply n
        (address + BitVec.ofNat 32 x.delivered) (payload.take (capacity - x.delivered))
        (x.replyNext payload.length (capacity - x.delivered) more) := by
  simp only [State.takeReply, hdest, State.modExchange_of_some hx]

theorem State.writeReply_of_some {bytes : List Byte} (h : bytes ≠ []) (s : State) (n : LineId) (address : Word) (next : AfterWrite) :
    s.writeReply n address bytes next = s.modLine n fun l => l.enterDeliver (.responseWrite address bytes next) :=
  if_neg fun k => h (List.isEmpty_iff.mp k)

theorem State.writeReply_nil (s : State) (n : LineId) (address : Word) (next : AfterWrite) :
    s.writeReply n address [] next = s.afterWrite n next := rfl

theorem State.afterWrite_continueRead {s : State} {n : LineId} {x : Exchange} (hx : (s.line n).exchange = some x) :
    s.afterWrite n .continueRead = (s.modLine n fun l => { l with exchange := some x.newBudget }).prepareRequest n := by
  rw [State.afterWrite, State.modExchange_of_some hx]

/-- Settles O51: each judgement by its rule, and a REPLY by the destination of its payload. -/
theorem judgementDecidesTheExchange : Obligations.JudgementDecidesTheExchange := by
  intro s n x sent hx hsent l put
  refine ⟨State.judgeFrame_of_some hx hsent, fun kind => rfl, fun hexpired => ?late, fun hrunning => ?stale, fun hwithin => ?busy,
    fun hbeyond => ?busyLimit, fun k hk => ⟨fun reason ep => ?refuse, fun payload more ep => ?reply⟩⟩
  case late => exact (State.discardStale_eq s n).trans (if_pos hexpired)
  case stale => exact (State.discardStale_eq s n).trans (if_neg hrunning)
  case busy => exact State.acceptBusy_of_within hx hwithin
  case busyLimit => exact State.acceptBusy_of_beyond hx hbeyond
  case refuse => exact State.acceptRefuse_of_station hk n reason ep
  case reply =>
    intro act
    refine ⟨fun hsync => ?sync, fun hsync => ?request⟩
    case sync =>
      have hact : act = s.acceptSyncReply n x := if_pos hsync
      rw [hact, State.acceptSyncReply_of_station hk]
      exact ⟨fun hprobe => if_pos hprobe, fun hprobe => if_neg hprobe⟩
    case request =>
      intro y t
      have ht : (t.line n).exchange = some y :=
        congrArg Line.exchange (State.modLine_line_self s n fun m => { m with exchange := some y })
      have hact : act = t.takeReply n y sent payload more := by
        have hreply : act = s.acceptReply n x sent payload more ep := if_neg (by rw [hsync]; decide)
        rw [hreply, State.acceptReply_of_station hk]
      rw [hact]
      refine ⟨fun hdest hbulk => ?write, fun hdest => ?poll, fun hdest => ?staging, fun address capacity hdest => ?buffer⟩
      case write =>
        have hack : t.takeReply n y sent payload more = t.segmentAcknowledged n sent := by
          simp only [State.takeReply, show y.destination = .none from hdest]
          exact if_pos hbulk
        rw [hack, State.segmentAcknowledged_eq ht]
        exact ⟨fun hmore => if_pos hmore, fun hmore => if_neg (by rw [hmore]; decide)⟩
      case poll =>
        simp only [State.takeReply, show y.destination = .pollSlot from hdest, State.modExchange_of_some ht]
        rfl
      case staging =>
        simp only [State.takeReply, show y.destination = .staging from hdest, List.isEmpty_iff]
        rfl
      case buffer =>
        intro room z next
        have hnext : y.replyNext payload.length room more = next := Exchange.replyNext_eq y _ _ _
        have hbuffer := State.takeReply_of_buffer ht (show y.destination = .buffer address capacity from hdest) sent payload more
        change _ = (put t z).writeReply n (address + BitVec.ofNat 32 x.delivered) (payload.take room)
          (y.replyNext payload.length room more) at hbuffer
        rw [hnext] at hbuffer
        rw [hbuffer]
        refine ⟨fun hsome => ?_, fun hnil => ?_⟩
        · rw [State.writeReply_of_some hsome]
          rfl
        · rw [hnil, State.writeReply_nil]
          refine ⟨fun status hfinish => by rw [hfinish]; rfl, fun hread => ?_⟩
          rw [hread, State.afterWrite_continueRead (x := z) (congrArg Line.exchange (State.modLine_line_self t n _)),
            State.modLine_modLine]
          rfl

/-! ### Frames built and judged (R5 to R13) -/

/-- The check of a frame with its two check characters, high byte first, is over ADDRESS to the last PAYLOAD byte (R10). -/
theorem checkCorrect_cons (body : List Byte) (hi lo : Byte) :
    checkCorrect (Config.sof :: (body ++ [hi, lo])) = (crc16 body == hi ++ lo) := by
  have hlength : (Config.sof :: (body ++ [hi, lo])).length = body.length + 3 := by simp
  have hhi : frameByte (Config.sof :: (body ++ [hi, lo])) (body.length + 3 - 2) = hi := by simp [frameByte, List.getD]
  have hlo : frameByte (Config.sof :: (body ++ [hi, lo])) (body.length + 3 - 1) = lo := by simp [frameByte, List.getD]
  have hcovered : ((Config.sof :: (body ++ [hi, lo])).drop 1).take (body.length + 3 - 3) = body := by simp
  simp only [checkCorrect, hlength, hhi, hlo, hcovered]

theorem framePayload_cons {a control function length : Byte} {payload rest : List Byte} (h : length.toNat = payload.length) :
    framePayload (Config.sof :: (a :: control :: function :: length :: payload ++ rest)) = payload := by
  change (payload ++ rest).take length.toNat = payload
  rw [h, List.take_left]

theorem byteOf_toNat {n : Nat} (h : n < 256) : (byteOf n).toNat = n := by
  rw [byteOf, BitVec.toNat_ofNat]
  exact Nat.mod_eq_of_lt h

theorem Frame.control_toNat (f : Frame) :
    f.control.toNat = (if f.sync then 1 else 0) + (if f.toggle then 8 else 0) + (if f.more then 16 else 0) := by
  rw [Frame.control]
  cases f.sync <;> cases f.toggle <;> cases f.more <;> rfl

theorem Frame.covered_length (f : Frame) (address : BitVec 7) : (f.covered address).length = f.payload.length + 4 := rfl

theorem Frame.characters_length (f : Frame) (address : BitVec 7) : (f.characters address).length = f.payload.length + 7 := by
  simp only [Frame.characters, List.length_cons, List.length_append, Frame.covered_length, List.length_nil]

/-- The two halves of the check, high byte first, are the check (R10). -/
theorem extractLsb'_append (h : Half) : h.extractLsb' 8 8 ++ h.extractLsb' 0 8 = h := by
  apply BitVec.eq_of_getLsbD_eq
  intro i hi
  simp only [BitVec.getLsbD_append, BitVec.getLsbD_extractLsb']
  grind

theorem Frame.checkCorrect_characters (f : Frame) (address : BitVec 7) : checkCorrect (f.characters address) = true := by
  rw [Frame.characters, checkCorrect_cons, extractLsb'_append, beq_self_eq_true]

/-- A station's frame has the top bit of ADDRESS set (R6). -/
theorem ne_answer_iff (a : Byte) (address : BitVec 7) : a ≠ 1#1 ++ address ↔ a.toNat ≠ 128 + address.toNat := by
  have hvalue : (1#1 ++ address).toNat = 128 + address.toNat := by
    rw [BitVec.toNat_append, ← Nat.shiftLeft_add_eq_or_of_lt address.isLt]
    rfl
  rw [← hvalue]
  exact not_congr ⟨congrArg BitVec.toNat, BitVec.eq_of_toNat_eq⟩

/-- The four tests of R13 over a complete frame. -/
theorem judge_cons {address : BitVec 7} {sent : Frame} {a control function length hi lo : Byte} {payload : List Byte}
    (hlength : length.toNat = payload.length) :
    let covered := a :: control :: function :: length :: payload
    judge (Config.sof :: (covered ++ [hi, lo])) address sent =
      if crc16 covered ≠ hi ++ lo then .failed .checkError
      else if a.toNat ≠ 128 + address.toNat then .failed .frameError
      else if function ≠ sent.function then .failed .frameError
      else if control.toNat % 8 = 6 then .busy
      else if control[3] ≠ sent.toggle then .stale
      else if control.toNat % 8 = 5 then .refuse ((covered ++ [hi, lo]).getD 4 0#8) control[5]
      else .reply payload control[4] control[5] := by
  intro covered
  rw [judge, checkCorrect_cons, framePayload_cons hlength]
  simp only [Bool.not_eq_true', beq_eq_false_iff_ne, bne_iff_ne, ← ne_answer_iff]
  rfl

/-- Settles O49: the characters by their layout, the judgement by `judge_cons`, and the check's reference by evaluation. -/
theorem framesAreBuiltAndJudged : Obligations.FramesAreBuiltAndJudged := by
  refine ⟨fun f address hshort => ?built, fun address sent a control function length hi lo payload hlength => ?judged, by decide +kernel⟩
  case built =>
    have hbyte : (byteOf f.payload.length).toNat = f.payload.length := byteOf_toNat (by omega)
    refine ⟨f.characters_length address, (frameComplete_iff _).mpr ⟨?_, ?_⟩, f.checkCorrect_characters address,
      framePayload_cons hbyte, rfl, ?_, rfl, hbyte, f.control_toNat⟩
    · rw [f.characters_length]
      omega
    · rw [f.characters_length]
      exact congrArg (· + 7) hbyte.symm
    · exact BitVec.toNat_setWidth_of_le (by decide : 7 ≤ 8)
  case judged =>
    intro covered verdict kind
    have hverdict : verdict = _ := judge_cons hlength
    refine ⟨fun hcheck => hverdict.trans (if_pos (Ne.symm hcheck)), fun hcheck => ?_⟩
    replace hverdict := hverdict.trans (if_neg (not_not.mpr hcheck.symm))
    refine ⟨fun ha => hverdict.trans (if_pos ha), fun ha hfunction => ?_, fun ha hfunction => ?_⟩
    · exact hverdict.trans ((if_neg (not_not.mpr ha)).trans (if_pos hfunction))
    replace hverdict := hverdict.trans ((if_neg (not_not.mpr ha)).trans (if_neg (not_not.mpr hfunction)))
    refine ⟨fun hbusy => hverdict.trans (if_pos hbusy), fun hbusy htoggle => ?_, fun hrefuse htoggle => ?_,
      fun hrefuse hbusy htoggle => ?_⟩
    · exact hverdict.trans ((if_neg hbusy).trans (if_pos htoggle))
    · have hbusy : kind ≠ 6 := by rw [hrefuse]; decide
      exact hverdict.trans ((if_neg hbusy).trans ((if_neg (not_not.mpr htoggle)).trans (if_pos hrefuse)))
    · exact hverdict.trans ((if_neg hbusy).trans ((if_neg (not_not.mpr htoggle)).trans (if_neg hrefuse)))

end Sys2Proof.Machine
end

section
/-! PROOFS. The take of an admin record with its argument checks (R148, R156), CONFIGURE LINE, START LINE, SET CAPTURE and RESTART RING (R160, R161,
R172, R173), and the deferred commands (R158). -/

namespace Sys2Proof.Machine

/-! ### The take of an admin record and its argument checks (R148, R156) -/

/-- The take of an admin record, then the row of its code, then the asking of the ring-fetch requester (R143, R148). -/
theorem State.adminRow_of_takes {s : State} (h : s.AdminTakes) (run : State → State) :
    s.adminRow run = (run s.adminTaken).askFetch := by
  obtain ⟨hburst, hreset, hdevice, hadmin, hvoid⟩ := h
  have hdevice' : s.clearBurst.hbi.device = .running := hdevice
  have hmay : s.clearBurst.adminMayTake = true := by
    simp [State.adminMayTake, hdevice, show s.clearBurst.admin = .idle from hadmin,
      show s.clearBurst.ringUnit.fetchVoid = false from hvoid]
  rw [State.adminRow, State.burstEnd_of_burst hburst hreset, if_neg (by rw [hdevice']; decide), if_pos hmay]
  rfl

theorem outside_eq (lo hi n : Nat) : outside lo hi n = decide (n < lo ∨ hi < n) := by
  simp [outside]

theorem outside_of_mem {lo hi n : Nat} (hlo : lo ≤ n) (hhi : n ≤ hi) : outside lo hi n = false := by
  rw [outside_eq, decide_eq_false_iff_not]
  omega

theorem reservedNonzero_iff (body : AdminBody) (offsets : List Nat) :
    reservedNonzero body offsets = true ↔ ∃ k ∈ offsets, argNat body k ≠ 0 := by
  simp only [reservedNonzero, List.any_eq_true, bne_iff_ne, argNat, ne_eq, BitVec.toNat_eq, BitVec.toNat_ofNat, Nat.zero_mod]

theorem mem_offsetsFrom (a k : Nat) : k ∈ offsetsFrom a ↔ a ≤ k ∧ k < 32 := by
  simp only [offsetsFrom, List.mem_map, List.mem_range]
  exact ⟨fun ⟨j, hj, hk⟩ => by omega, fun ⟨hak, hk⟩ => ⟨k - a, by omega⟩⟩

theorem reservedNonzero_of_zeroFrom {body : AdminBody} {a : Nat} (h : ZeroFrom body a) :
    reservedNonzero body (offsetsFrom a) = false := by
  rw [Bool.eq_false_iff, ne_eq, reservedNonzero_iff]
  rintro ⟨k, hk, hne⟩
  obtain ⟨hak, hk32⟩ := (mem_offsetsFrom a k).mp hk
  exact hne (congrArg BitVec.toNat (h k hak hk32))

theorem firstTrue_of_all_false {bs : List Bool} (h : ∀ b ∈ bs, b = false) (k : Nat) : firstTrue bs k = none := by
  induction bs generalizing k with
  | nil => rfl
  | cons b bs ih =>
    rw [firstTrue, h b List.mem_cons_self, if_neg Bool.false_ne_true]
    exact ih (fun c hc => h c (List.mem_cons_of_mem b hc)) (k + 1)

/-- The number of the first element that holds (R156 step 2). -/
theorem firstTrue_of_first {bs : List Bool} {i : Nat} (htrue : bs[i]? = some true) (hbefore : ∀ j, j < i → bs[j]? = some false)
    (k : Nat) : firstTrue bs k = some (k + i) := by
  induction bs generalizing i k with
  | nil => simp at htrue
  | cons b bs ih =>
    cases i with
    | zero =>
      obtain rfl : b = true := by simpa using htrue
      rfl
    | succ i =>
      obtain rfl : b = false := by simpa using hbefore 0 (Nat.succ_pos i)
      rw [firstTrue, if_neg Bool.false_ne_true, ih (by simpa using htrue) (fun j hj => by simpa using hbefore (j + 1) (by omega))]
      congr 1
      omega

/-- With no reserved byte set and every argument in range the rest of the command runs (R156). -/
theorem State.withArguments_of_valid {reserved : Bool} {checks : List Bool} (hreserved : reserved = false)
    (hchecks : ∀ b ∈ checks, b = false) (s : State) (tag : Half) (code : Byte) (rest : State → State) :
    s.withArguments tag code (argumentFault reserved checks) rest = rest s := by
  rw [argumentFault, hreserved, if_neg Bool.false_ne_true, firstTrue_of_all_false hchecks]
  rfl

theorem State.withArguments_of_reserved {reserved : Bool} (hreserved : reserved = true) (s : State) (tag : Half) (code : Byte)
    (checks : List Bool) (rest : State → State) :
    s.withArguments tag code (argumentFault reserved checks) rest =
      s.adminClaim (adminCompletion tag code .badArgument (byteOf 0) 0 0 noStationCode) := by
  rw [argumentFault, if_pos hreserved]
  rfl

theorem State.withArguments_of_first {reserved : Bool} {checks : List Bool} {i : Nat} (hreserved : reserved = false)
    (htrue : checks[i]? = some true) (hbefore : ∀ j, j < i → checks[j]? = some false) (s : State) (tag : Half) (code : Byte)
    (rest : State → State) :
    s.withArguments tag code (argumentFault reserved checks) rest =
      s.adminClaim (adminCompletion tag code .badArgument (byteOf (i + 1)) 0 0 noStationCode) := by
  rw [argumentFault, hreserved, if_neg Bool.false_ne_true, firstTrue_of_first htrue hbefore, Nat.add_comm]
  rfl

theorem lineOf_val (n : LineId) : lineOf n.val = n := Fin.ofNat_val_eq_self n
theorem slotOf_val (k : SlotId) : slotOf k.val = k := Fin.ofNat_val_eq_self k
theorem pollOf_val (id : PollId) : pollOf id.val = id := Fin.ofNat_val_eq_self id

/-- The least index with a property is the one a search in ascending order finds. -/
theorem find?_finRange_of_first {m : Nat} {p : Fin m → Bool} {k : Fin m} (hk : p k = true) (hbefore : ∀ j, j < k → p j = false) :
    (List.finRange m).find? p = some k := by
  rw [List.find?_eq_some_iff_getElem]
  refine ⟨hk, k.val, by rw [List.length_finRange]; exact k.isLt, by simp, fun j hj => ?_⟩
  rw [List.getElem_finRange, Bool.not_eq_true', hbefore]
  exact hj

theorem find?_finRange_none {m : Nat} {p : Fin m → Bool} (h : ∀ j, p j = false) : (List.finRange m).find? p = none :=
  List.find?_eq_none.mpr fun j _ => by rw [h j]; decide

/-- An enable argument in range is set exactly when it is 1. -/
theorem bne_zero_eq_beq_one {n : Nat} (h : n ≤ 1) : (n != 0) = (n == 1) := by
  interval_cases n <;> rfl

/-! ### CONFIGURE LINE and START LINE (R160, R161) -/

/-- CONFIGURE LINE past its checks (R160). -/
theorem exec_configureLine_of_valid {s : State} {body : AdminBody} (h : s.AdminTakes) (hzero : ZeroFrom body 18)
    (hchecks : ∀ b ∈ configureLineChecks body, b = false) (tag : Half) :
    exec (.configureLine tag body) s =
      .next (if (s.line (lineOf (argNat body 3))).engine = .off then
          (s.adminTaken.modLine (lineOf (argNat body 3)) fun l => { l with config := configureLineSettings body }).adminDone tag 0x01#8
        else s.adminTaken.adminEnd tag 0x01#8 .wrongState 0 noStationCode).askFetch :=
  (congrArg Host.Outcome.next (State.adminRow_of_takes h fun t => t.runConfigureLine tag body)).trans
    (congrArg (fun u => Host.Outcome.next (State.askFetch u))
      (State.withArguments_of_valid (reservedNonzero_of_zeroFrom hzero) hchecks _ _ _ _))

theorem exec_startLine_of_valid {s : State} {body : AdminBody} (h : s.AdminTakes) (hzero : ZeroFrom body 4)
    (hline : argNat body 3 ≤ 3) (tag : Half) :
    exec (.startLine tag body) s =
      .next (if (s.line (lineOf (argNat body 3))).engine = .off then
          ((s.adminTaken.modLine (lineOf (argNat body 3)) Line.start).runCycle (lineOf (argNat body 3))).adminDone tag 0x02#8
        else s.adminTaken.adminEnd tag 0x02#8 .wrongState 0 noStationCode).askFetch :=
  (congrArg Host.Outcome.next (State.adminRow_of_takes h fun t => t.runStartLine tag body)).trans
    (congrArg (fun u => Host.Outcome.next (State.askFetch u))
      (State.withArguments_of_valid (reservedNonzero_of_zeroFrom hzero) (by simp [outside_of_mem, hline]) _ _ _ _))

/-- Settles O32: past the checks each command has one branch for an OFF line and one for another. -/
theorem configureAndStartNeedOff : Obligations.ConfigureAndStartNeedOff := by
  intro s n tag body htakes hline t
  have hn : lineOf (argNat body 3) = n := by rw [hline, lineOf_val]
  have hline3 : argNat body 3 ≤ 3 := by omega
  refine ⟨?configure, ?start⟩
  case configure =>
    intro hzero hdiv hparity hstop1 hstop2 hlead htrail hgap1 hgap2 hlimit1 hlimit2 hecho hbusy hback hcycle1 hcycle2 hshare
    have hdiv2 : (argHalf body 4).toNat ≤ 65535 := Nat.le_of_lt_succ (argHalf body 4).isLt
    have hback2 : argNat body 16 ≤ 255 := Nat.le_of_lt_succ (argByte body 16).isLt
    have hchecks : ∀ b ∈ configureLineChecks body, b = false := by
      simp [configureLineChecks, outside_of_mem, *, -hline]
    have hsettings : configureLineSettings body =
        { divisor := (argHalf body 4).toNat, parity := [Parity.none, .even, .odd].getD (argNat body 8) .none
          stopBits := argNat body 9, leadDelay := argNat body 10, trailDelay := argNat body 11, quietGap := argNat body 12
          interCharacterLimit := argNat body 13, echoCheck := argNat body 14 == 1, busyLimit := argNat body 15
          busyBackoff := argNat body 16, cyclePeriod := (argHalf body 6).toNat, oneShotShare := argNat body 17 } := by
      have hcode : (if argNat body 8 = 0 then Parity.none else if argNat body 8 = 1 then .even else .odd) =
          [Parity.none, .even, .odd].getD (argNat body 8) .none := by
        generalize argNat body 8 = p at hparity
        interval_cases p <;> rfl
      rw [configureLineSettings, hcode, bne_zero_eq_beq_one hecho]
    have hrun := exec_configureLine_of_valid htakes hzero hchecks tag
    rw [hn, hsettings] at hrun
    exact ⟨fun hoff => hrun.trans (congrArg (fun u => Host.Outcome.next (State.askFetch u)) (if_pos hoff)),
      fun hon => hrun.trans (congrArg (fun u => Host.Outcome.next (State.askFetch u)) (if_neg hon))⟩
  case start =>
    intro hzero
    have hrun := exec_startLine_of_valid htakes hzero hline3 tag
    rw [hn] at hrun
    refine ⟨fun hoff => ⟨(s.line n).start, ?_, rfl, rfl, rfl, rfl, rfl, rfl, rfl, rfl, rfl, rfl, rfl, rfl, rfl, rfl, rfl, rfl, rfl, rfl⟩,
      fun hon => hrun.trans (congrArg (fun u => Host.Outcome.next (State.askFetch u)) (if_neg hon))⟩
    exact hrun.trans (congrArg (fun u => Host.Outcome.next (State.askFetch u)) (if_pos hoff))

/-! ### SET CAPTURE and RESTART RING (R172, R173) -/

theorem exec_setCapture_of_valid {s : State} {body : AdminBody} (h : s.AdminTakes) (hzero : ZeroFrom body 20)
    (hsix : argNat body 6 = 0) (hseven : argNat body 7 = 0) (hchecks : ∀ b ∈ setCaptureChecks body, b = false) (tag : Half) :
    exec (.setCapture tag body) s =
      .next (((s.adminTaken.modCapture fun c => { c with reconfig := true }).setAdmin
        (.deferred tag (.setCapture (setCaptureConfig body)))).deferredApply).askFetch := by
  have hreserved : reservedNonzero body ([6, 7] ++ offsetsFrom 20) = false := by
    rw [Bool.eq_false_iff, ne_eq, reservedNonzero_iff]
    rintro ⟨k, hk, hne⟩
    simp only [List.mem_append, List.mem_cons, List.not_mem_nil, or_false, mem_offsetsFrom] at hk
    obtain (rfl | rfl) | ⟨hlow, hhigh⟩ := hk
    · exact hne hsix
    · exact hne hseven
    · exact hne (congrArg BitVec.toNat (hzero k hlow hhigh))
  exact (congrArg Host.Outcome.next (State.adminRow_of_takes h fun t => t.runSetCapture tag body)).trans
    (congrArg (fun u => Host.Outcome.next (State.askFetch u)) (State.withArguments_of_valid hreserved hchecks _ _ _ _))

theorem AdminWait.setCapture_ready_iff (config : Option CaptureConfig) (s : State) :
    (AdminWait.setCapture config).ready s = true ↔ s.capture.reserved = 0 ∧ s.capture.writeQueue = [] := by
  simp [AdminWait.ready]

theorem AdminWait.setCapture_ready_eq_false {s : State} (h : s.capture.reserved ≠ 0 ∨ s.capture.writeQueue ≠ [])
    (config : Option CaptureConfig) : (AdminWait.setCapture config).ready s = false := by
  rw [Bool.eq_false_iff, ne_eq, AdminWait.setCapture_ready_iff]
  exact fun ⟨hreserved, hqueue⟩ => h.elim (· hreserved) (· hqueue)

/-- The argument checks of SET CAPTURE pass for the configuration its arguments give (R172). -/
theorem setCaptureChecks_of_config {body : AdminBody} {config : Option CaptureConfig} {stop resume size : Nat}
    (hstop : stop = (argWord body 12).toNat) (hresume : resume = (argWord body 16).toNat) (hsize : size = 2 ^ argNat body 5)
    (h : argNat body 3 = 0 ∧ config = none ∨
        argNat body 3 = 1 ∧ (argWord body 8).toNat % 64 = 0 ∧ 10 ≤ argNat body 5 ∧ argNat body 5 ≤ 20 ∧ argNat body 4 ≤ 1 ∧
          144 ≤ stop ∧ stop ≤ size / 2 ∧ stop + 72 ≤ resume ∧ resume ≤ size ∧
          config = some { base := argWord body 8, size := size, mode := if argNat body 4 = 0 then .hold else .loop
                          stopMark := stop, resumeMark := resume }) :
    (∀ b ∈ setCaptureChecks body, b = false) ∧ setCaptureConfig body = config := by
  obtain ⟨hoff, rfl⟩ | ⟨hon, hbase, hlog1, hlog2, hmode, hstop1, hstop2, hresume1, hresume2, rfl⟩ := h
  · simp [setCaptureChecks, setCaptureConfig, hoff]
  · subst hstop hresume hsize
    refine ⟨?_, ?_⟩
    · simp [setCaptureChecks, hon, hbase, outside_of_mem, hlog1, hlog2, hmode, hstop1, hstop2, hresume1, hresume2]
    · rw [setCaptureConfig, if_neg (by rw [hon]; decide)]

/-- Settles O38: the pending reconfiguration applies in the event, or waits, by its condition. -/
theorem captureIsConfigured : Obligations.CaptureIsConfigured := by
  intro s tag body htakes hzero hsix hseven t stop resume size config hconfig
  obtain ⟨hchecks, hgiven⟩ := setCaptureChecks_of_config rfl rfl rfl hconfig
  have hrun := exec_setCapture_of_valid htakes hzero hsix hseven hchecks tag
  rw [hgiven] at hrun
  rw [hrun]
  refine ⟨fun hreserved hqueue => ?now, fun hwait => ?later⟩
  case now =>
    exact congrArg (fun u => Host.Outcome.next (State.askFetch u))
      (State.deferredApply_of_ready (tag := tag) (w := .setCapture config) rfl
        ((AdminWait.setCapture_ready_iff config _).mpr ⟨hreserved, hqueue⟩))
  case later =>
    refine congrArg (fun u => Host.Outcome.next (State.askFetch u)) (State.deferredApply_of_notReady fun other w hw => ?_)
    injection hw with _ hw
    subst hw
    exact AdminWait.setCapture_ready_eq_false hwait config

theorem exec_restartRing_of_valid {s : State} {body : AdminBody} (h : s.AdminTakes) (hzero : ZeroFrom body 6)
    (hone : 1 ≤ argNat body 3) (hfour : argNat body 3 ≤ 4) (tag : Half) :
    exec (.restartRing tag body) s =
      .next (if (s.line (lineOf (argNat body 3 - 1))).engine = .off then
          ((s.adminTaken.modRing (ringOfLine (lineOf (argNat body 3 - 1))) fun g =>
            { g with consumer := argHalf body 4, accepted := argHalf body 4, state := .active }).markShadow).adminDone tag 0x0E#8
        else s.adminTaken.adminEnd tag 0x0E#8 .wrongState 0 noStationCode).askFetch :=
  (congrArg Host.Outcome.next (State.adminRow_of_takes h fun t => t.runRestartRing tag body)).trans
    (congrArg (fun u => Host.Outcome.next (State.askFetch u))
      (State.withArguments_of_valid (reservedNonzero_of_zeroFrom hzero) (by simp [outside_of_mem, hone, hfour]) _ _ _ _))

/-- Settles O39: the take has marked the shadow area already. -/
theorem ringIsRestarted : Obligations.RingIsRestarted := by
  intro s tag body n htakes hzero hring t
  have hrun := exec_restartRing_of_valid htakes hzero (by omega) (by omega) tag
  rw [hring, Nat.add_sub_cancel, lineOf_val] at hrun
  exact ⟨fun hoff => hrun.trans (congrArg (fun u => Host.Outcome.next (State.askFetch u)) (if_pos hoff)),
    fun hon => hrun.trans (congrArg (fun u => Host.Outcome.next (State.askFetch u)) (if_neg hon))⟩

/-! ### The deferred commands (R158) -/

/-- A command that waits does nothing until its condition holds (R158). -/
theorem State.deferredApply_of_waiting {s : State} {tag : Half} {w : AdminWait} (hadmin : s.admin = .deferred tag w)
    (hready : w.ready s = false) : s.deferredApply = s := by
  refine State.deferredApply_of_notReady fun other v hv => ?_
  rw [hadmin] at hv
  injection hv with _ hv
  rwa [← hv]

/-- Settles O41: each waiting command has its condition, its effect and its completion. -/
theorem deferredCommandApplies : Obligations.DeferredCommandApplies := by
  intro s tag
  refine ⟨rfl, fun hnone => ?none, fun n hadmin => ⟨fun h => ?_, fun h => ?_⟩, fun k hadmin => ⟨fun h => ?_, fun h => ?_⟩,
    fun k hadmin => ⟨fun h => ?_, fun h => ?_⟩, fun id hadmin => ⟨fun h => ?_, fun h => ?_⟩,
    fun config hadmin => ⟨fun hreserved hqueue => ?capture, fun h => ?captureWaits⟩⟩
  case none => exact State.deferredApply_of_notReady fun other w hw => absurd hw (hnone other w)
  case capture =>
    exact State.deferredApply_of_ready hadmin ((AdminWait.setCapture_ready_iff config s).mpr ⟨hreserved, hqueue⟩)
  case captureWaits => exact State.deferredApply_of_waiting hadmin (AdminWait.setCapture_ready_eq_false h config)
  · exact State.deferredApply_of_ready hadmin (beq_iff_eq.mpr h)
  · exact State.deferredApply_of_waiting hadmin (beq_eq_false_iff_ne.mpr h)
  · exact State.deferredApply_of_ready hadmin (congrArg Bool.not h)
  · exact State.deferredApply_of_waiting hadmin (congrArg Bool.not h)
  · exact State.deferredApply_of_ready hadmin (congrArg Bool.not h)
  · exact State.deferredApply_of_waiting hadmin (congrArg Bool.not h)
  · exact State.deferredApply_of_ready hadmin (beq_iff_eq.mpr h)
  · exact State.deferredApply_of_waiting hadmin (beq_eq_false_iff_ne.mpr h)

end Sys2Proof.Machine
end

section
/-! PROOFS. The station and poll commands at their take (R163 to R171), the records refused (R156), and the notice scanner's claims (R81). -/

namespace Sys2Proof.Machine

/-! ### Argument checks of the station commands (R163 to R167) -/

/-- The five station settings pass their checks at the same offsets (R163, R164). -/
theorem stationSettingChecks_of_valid {body : AdminBody} {k : Nat} (h : StationSettingsValid body k) :
    ∀ b ∈ stationSettingChecks body k, b = false := by
  obtain ⟨htimeout, hretry, ⟨hthreshold1, hthreshold2⟩, hreprobe, hcapture⟩ := h
  have byteMax : ∀ j, argNat body j ≤ 255 := fun j => Nat.le_of_lt_succ (argByte body j).isLt
  simp [stationSettingChecks, outside_of_mem, htimeout, hretry, hthreshold1, hthreshold2, hreprobe, hcapture, byteMax]

theorem State.namedStateCode_of_slot (s : State) {k : SlotId} {arg : Nat} (h : k.val = arg) :
    s.namedStateCode arg = (s.station k).state.code := by
  have harg : arg ≠ anyFF := by
    have := k.isLt
    rw [anyFF]
    omega
  rw [State.namedStateCode, if_neg harg, ← h, slotOf_val]

/-- The slot DEFINE STATION fills: the one named, or with FFh the lowest ABSENT one (R163). -/
theorem State.slotToFill_eq_some {s : State} {k : SlotId} {arg : Nat} (habsent : (s.station k).state = .absent)
    (h : k.val = arg ∨ (arg = 255 ∧ ∀ m, m < k → (s.station m).state ≠ .absent)) : s.slotToFill arg = some k := by
  obtain h | ⟨h, hbefore⟩ := h
  · have harg : arg ≠ anyFF := by
      have := k.isLt
      rw [anyFF]
      omega
    rw [State.slotToFill, if_neg harg, ← h, slotOf_val]
  · rw [State.slotToFill, if_pos (show arg = anyFF from h)]
    exact find?_finRange_of_first (beq_iff_eq.mpr habsent) fun j hj => beq_eq_false_iff_ne.mpr (hbefore j hj)

/-- A DEFINE STATION finds its address in use on the line (R69). -/
theorem State.lookup_isSome_iff (s : State) (n : LineId) (address : BitVec 7) :
    (s.lookup n address).isSome = true ↔
      ∃ m : SlotId, (s.station m).state ≠ .absent ∧ (s.station m).line = n ∧ (s.station m).address = address := by
  simp [State.lookup, allSlots, List.find?_isSome, List.mem_finRange, and_assoc]

theorem exec_defineStation_of_full {s : State} {body : AdminBody} (h : s.AdminTakes) (hzero : ZeroFrom body 11)
    (hchecks : ∀ b ∈ defineStationChecks body, b = false) (hfill : s.slotToFill (argNat body 3) = none) (tag : Half) :
    exec (.defineStation tag body) s = .next (s.adminTaken.adminEnd tag 0x04#8 .noSpace 0 noStationCode).askFetch := by
  have hfill' : s.adminTaken.slotToFill (argNat body 3) = none := hfill
  refine ((congrArg Host.Outcome.next (State.adminRow_of_takes h fun t => t.runDefineStation tag body)).trans
    (congrArg (fun u => Host.Outcome.next (State.askFetch u))
      (State.withArguments_of_valid (reservedNonzero_of_zeroFrom hzero) hchecks _ _ _ _))).trans ?_
  simp only [hfill']

/-- DEFINE STATION past its checks, with a slot to fill (R163, R69). -/
theorem exec_defineStation_of_slot {s : State} {body : AdminBody} {k : SlotId} (h : s.AdminTakes) (hzero : ZeroFrom body 11)
    (hchecks : ∀ b ∈ defineStationChecks body, b = false) (hfill : s.slotToFill (argNat body 3) = some k) (tag : Half) :
    exec (.defineStation tag body) s =
      .next (if (s.station k).state ≠ .absent then s.adminTaken.adminEnd tag 0x04#8 .inUse 0 (s.namedStateCode (argNat body 3))
        else if (s.lookup (lineOf (argNat body 4)) ((argByte body 5).setWidth 7)).isSome then
          s.adminTaken.adminEnd tag 0x04#8 .duplicateAddress 0 (s.namedStateCode (argNat body 3))
        else
          (s.adminTaken.modStation k fun _ =>
            Station.define (lineOf (argNat body 4)) ((argByte body 5).setWidth 7) (argNat body 6) (argNat body 7) (argNat body 8)
              (argNat body 9) (argNat body 10 != 0)).adminEnd tag 0x04#8 .done (byteOf k.val) StationState.probing.code).askFetch := by
  have hfill' : s.adminTaken.slotToFill (argNat body 3) = some k := hfill
  refine ((congrArg Host.Outcome.next (State.adminRow_of_takes h fun t => t.runDefineStation tag body)).trans
    (congrArg (fun u => Host.Outcome.next (State.askFetch u))
      (State.withArguments_of_valid (reservedNonzero_of_zeroFrom hzero) hchecks _ _ _ _))).trans ?_
  simp only [hfill']
  rfl

/-- Settles O34: the three refusals and the entry are the branches of the command past its checks. -/
theorem stationIsDefined : Obligations.StationIsDefined := by
  intro s tag body n htakes hzero hslot hline haddr1 haddr2 hsettings t taken duplicate
  have ⟨_, _, _, _, henable⟩ := hsettings
  have hn : lineOf (argNat body 4) = n := by rw [hline, lineOf_val]
  have hchecks : ∀ b ∈ defineStationChecks body, b = false := by
    have hslotCheck : (outside 0 127 (argNat body 3) && argNat body 3 != anyFF) = false := by
      obtain h | h := hslot
      · rw [outside_of_mem (Nat.zero_le _) h, Bool.false_and]
      · rw [h]
        rfl
    have hlineCheck : outside 0 3 (argNat body 4) = false := outside_of_mem (Nat.zero_le _) (by omega)
    simpa [defineStationChecks, hslotCheck, hlineCheck, outside_of_mem haddr1 haddr2] using stationSettingChecks_of_valid hsettings
  have haddress : ((argByte body 5).setWidth 7).toNat = argNat body 5 := by
    rw [BitVec.toNat_setWidth]
    exact Nat.mod_eq_of_lt (show argNat body 5 < 128 by omega)
  have hduplicate : (s.lookup n ((argByte body 5).setWidth 7)).isSome = true ↔ duplicate := by
    rw [State.lookup_isSome_iff]
    refine exists_congr fun m => and_congr_right fun _ => and_congr_right fun _ => ?_
    rw [← haddress, BitVec.toNat_inj]
  refine ⟨fun hff hall => ?noSpace, fun k hk htaken => ?inUse, fun k hfree hk => ?free⟩
  case noSpace =>
    have hnone : s.slotToFill (argNat body 3) = none := by
      rw [State.slotToFill, if_pos (show argNat body 3 = anyFF from hff)]
      exact find?_finRange_none fun m => beq_eq_false_iff_ne.mpr (hall m)
    exact exec_defineStation_of_full htakes hzero hchecks hnone tag
  case inUse =>
    have hfill : s.slotToFill (argNat body 3) = some k := by
      have harg : argNat body 3 ≠ anyFF := by
        have := k.isLt
        rw [anyFF]
        omega
      rw [State.slotToFill, if_neg harg, ← hk, slotOf_val]
    rw [exec_defineStation_of_slot htakes hzero hchecks hfill, ← s.namedStateCode_of_slot hk]
    exact congrArg (fun u => Host.Outcome.next (State.askFetch u)) (if_pos htaken)
  case free =>
    have habsent : (s.station k).state = .absent := not_not.mp hfree
    rw [exec_defineStation_of_slot htakes hzero hchecks (State.slotToFill_eq_some habsent hk), hn]
    have hcode : s.namedStateCode (argNat body 3) = if argNat body 3 = 255 then 7 else 0 := by
      obtain hk | ⟨hff, _⟩ := hk
      · rw [s.namedStateCode_of_slot hk, habsent, if_neg (by omega)]
        rfl
      · rw [hff]
        rfl
    refine ⟨fun hdup => ?_, fun hdup => ?_⟩
    · rw [← hcode]
      exact congrArg (fun u => Host.Outcome.next (State.askFetch u))
        ((if_neg (not_not.mpr habsent)).trans (if_pos (hduplicate.mpr hdup)))
    · refine congrArg (fun u => Host.Outcome.next (State.askFetch u))
        (((if_neg (not_not.mpr habsent)).trans (if_neg fun k => hdup (hduplicate.mp k))).trans ?_)
      rw [bne_zero_eq_beq_one henable]
      have hset : (argByte body 5).setWidth 7 = BitVec.ofNat 7 (argNat body 5) := (BitVec.ofNat_toNat _ _).symm
      rw [hset]
      rfl

/-! ### HOLD, RELEASE and REMOVE STATION (R165 to R167) -/

theorem exec_holdStation_of_valid {s : State} {body : AdminBody} (h : s.AdminTakes) (hzero : ZeroFrom body 4) {k : SlotId}
    (hk : argNat body 3 = k.val) (tag : Half) :
    exec (.holdStation tag body) s =
      .next (match (s.station k).state with
        | .absent => s.adminTaken.adminEnd tag 0x07#8 .notFound 0 StationState.absent.code
        | .held => s.adminTaken.adminEnd tag 0x07#8 .done 0 StationState.held.code
        | .probing | .online | .suspect | .offline =>
          if (s.station k).busy then
            (s.adminTaken.modStation k fun st => { st with pending := .hold }).setAdmin (.deferred tag (.holdStation k))
          else (s.adminTaken.applyHold k).adminEnd tag 0x07#8 .done 0 StationState.held.code).askFetch := by
  refine ((congrArg Host.Outcome.next (State.adminRow_of_takes h fun t => t.runHoldStation tag body)).trans
    (congrArg (fun u => Host.Outcome.next (State.askFetch u))
      (State.withArguments_of_valid (reservedNonzero_of_zeroFrom hzero)
        (by simp [outside_of_mem, hk, Nat.le_of_lt_succ k.isLt]) _ _ _ _))).trans ?_
  rw [hk, slotOf_val]
  rfl

theorem exec_releaseStation_of_valid {s : State} {body : AdminBody} (h : s.AdminTakes) (hzero : ZeroFrom body 4) {k : SlotId}
    (hk : argNat body 3 = k.val) (tag : Half) :
    exec (.releaseStation tag body) s =
      .next (if (s.station k).state = .held then
          (s.adminTaken.modStation k Station.release).adminEnd tag 0x08#8 .done 0 StationState.probing.code
        else s.adminTaken.adminEnd tag 0x08#8 .wrongState 0 (s.station k).state.code).askFetch := by
  refine ((congrArg Host.Outcome.next (State.adminRow_of_takes h fun t => t.runReleaseStation tag body)).trans
    (congrArg (fun u => Host.Outcome.next (State.askFetch u))
      (State.withArguments_of_valid (reservedNonzero_of_zeroFrom hzero)
        (by simp [outside_of_mem, hk, Nat.le_of_lt_succ k.isLt]) _ _ _ _))).trans ?_
  rw [hk, slotOf_val]
  rfl

theorem exec_removeStation_of_valid {s : State} {body : AdminBody} (h : s.AdminTakes) (hzero : ZeroFrom body 4) {k : SlotId}
    (hk : argNat body 3 = k.val) (tag : Half) :
    exec (.removeStation tag body) s =
      .next (if (s.station k).state = .absent then s.adminTaken.adminEnd tag 0x06#8 .notFound 0 StationState.absent.code
        else if s.pollNames k then s.adminTaken.adminEnd tag 0x06#8 .inUse 0 (s.station k).state.code
        else if (s.station k).busy then
          (s.adminTaken.modStation k fun st => { st with pending := .remove }).setAdmin (.deferred tag (.removeStation k))
        else (s.adminTaken.applyRemove k).adminEnd tag 0x06#8 .done 0 StationState.absent.code).askFetch := by
  refine ((congrArg Host.Outcome.next (State.adminRow_of_takes h fun t => t.runRemoveStation tag body)).trans
    (congrArg (fun u => Host.Outcome.next (State.askFetch u))
      (State.withArguments_of_valid (reservedNonzero_of_zeroFrom hzero)
        (by simp [outside_of_mem, hk, Nat.le_of_lt_succ k.isLt]) _ _ _ _))).trans ?_
  rw [hk, slotOf_val]
  rfl

theorem State.pollNames_iff (s : State) (k : SlotId) :
    s.pollNames k = true ↔ ∃ id : PollId, (s.poll id).state ≠ .free ∧ (s.poll id).station = k := by
  simp [State.pollNames, allPolls, List.mem_finRange]

/-- HOLD STATION at an entry in use: its follow-up entries leave, and it is HELD (R84). -/
theorem State.applyHold_of_used {s : State} {k : SlotId} (h : (s.station k).state ≠ .absent) :
    s.applyHold k = (s.dropFollowUps (s.station k).line fun f => f.slot == k).modStation k fun st =>
      { st with state := .held, failures := 0, reprobe := 0, pending := .clear } := by
  refine State.modStation_congr (if_neg ?_)
  rw [State.dropStation, State.station, State.dropFollowUps_stations]
  exact h

/-- Settles O36: each command past its check has one branch for each state of the entry. -/
theorem stationIsHeldReleasedRemoved : Obligations.StationIsHeldReleasedRemoved := by
  intro s tag body k htakes hzero hk t old live drop named
  have hhold := exec_holdStation_of_valid htakes hzero hk tag
  have hrelease := exec_releaseStation_of_valid htakes hzero hk tag
  have hremove := exec_removeStation_of_valid htakes hzero hk tag
  have hnamed : s.pollNames k = true ↔ named := s.pollNames_iff k
  have hlive : live → exec (.holdStation tag body) s =
      .next (if old.busy then (t.modStation k fun st => { st with pending := .hold }).setAdmin (.deferred tag (.holdStation k))
        else (t.applyHold k).adminEnd tag 0x07#8 .done 0 StationState.held.code).askFetch := fun h => by
    rw [hhold]
    obtain h | h | h | h := h <;> rw [show (s.station k).state = _ from h]
  refine ⟨fun h => ⟨?holdAbsent, ?removeAbsent⟩, fun h => ⟨?holdHeld, ?release⟩, fun h => ?releaseOther, fun hl hbusy => ?holdBusy,
    fun hl hfree => ?holdFree, fun h hn => ?removeNamed, fun h hn hbusy => ?removeBusy, fun h hn hfree => ?removeFree⟩
  case holdAbsent =>
    rw [hhold, show (s.station k).state = _ from h]
    rfl
  case removeAbsent => exact hremove.trans (congrArg (fun u => Host.Outcome.next (State.askFetch u)) (if_pos h))
  case holdHeld =>
    rw [hhold, show (s.station k).state = _ from h]
    rfl
  case release => exact hrelease.trans (congrArg (fun u => Host.Outcome.next (State.askFetch u)) (if_pos h))
  case releaseOther => exact hrelease.trans (congrArg (fun u => Host.Outcome.next (State.askFetch u)) (if_neg h))
  case holdBusy => exact (hlive hl).trans (congrArg (fun u => Host.Outcome.next (State.askFetch u)) (if_pos hbusy))
  case holdFree =>
    have hused : (t.station k).state ≠ .absent := fun habsent => by
      change old.state = .absent at habsent
      simp [live, habsent] at hl
    refine (hlive hl).trans (congrArg (fun u => Host.Outcome.next (State.askFetch u)) ((if_neg (by rw [hfree]; decide)).trans ?_))
    rw [State.applyHold_of_used hused]
    rfl
  all_goals refine hremove.trans (congrArg (fun u => Host.Outcome.next (State.askFetch u)) ((if_neg h).trans ?_))
  case removeNamed => exact if_pos (hnamed.mpr hn)
  case removeBusy => exact (if_neg fun k => hn (hnamed.mp k)).trans (if_pos hbusy)
  case removeFree => exact (if_neg fun k => hn (hnamed.mp k)).trans (if_neg (by rw [show (s.station k).busy = false from hfree]; decide))

/-! ### The notice scanner's claims (R81, R151) -/

theorem State.postNotice_eq (s : State) (k : SlotId) :
    s.postNotice k = (s.modStation k fun st => { st with notice := false }).modWriter fun w =>
      { w with holding := w.holding ++ [s.noticeOf k], pointer := 0, noticeNext := k + 1 } := rfl

theorem State.postNotice_holding (s : State) (k : SlotId) :
    (s.postNotice k).writer.holding.length = s.writer.holding.length + 1 := by
  simp [State.postNotice_eq]

theorem State.postNoticesFuel_of_refused {s : State} (h : 16 ≤ s.writer.holding.length ∨ s.hbi.device = .faulted) (fuel : Nat) :
    s.postNoticesFuel fuel = s := by
  cases fuel with
  | zero => rfl
  | succ fuel =>
    rw [State.postNoticesFuel, State.mayGrant_eq_false h]
    rfl

theorem State.postNoticesFuel_of_none {s : State} (h : s.nextNotice = none) (fuel : Nat) : s.postNoticesFuel fuel = s := by
  cases fuel with
  | zero => rfl
  | succ fuel =>
    rw [State.postNoticesFuel, h]
    split <;> rfl

theorem State.postNoticesFuel_of_some {s : State} {k : SlotId} (hroom : s.writer.holding.length < 16)
    (hdevice : s.hbi.device ≠ .faulted) (h : s.nextNotice = some k) (fuel : Nat) :
    s.postNoticesFuel (fuel + 1) = (s.postNotice k).postNoticesFuel fuel := by
  rw [State.postNoticesFuel, if_pos ((s.mayGrant_iff).mpr ⟨hroom, hdevice⟩), h]

/-- Any fuel that reaches the queue's depth makes the same claims. -/
theorem State.postNoticesFuel_congr {a b : Nat} {s : State} (ha : 16 ≤ s.writer.holding.length + a)
    (hb : 16 ≤ s.writer.holding.length + b) : s.postNoticesFuel a = s.postNoticesFuel b := by
  induction a generalizing b s with
  | zero => rw [State.postNoticesFuel_of_refused (.inl ha), State.postNoticesFuel_of_refused (.inl ha)]
  | succ a ih =>
    by_cases hroom : s.writer.holding.length < 16
    case neg =>
      rw [State.postNoticesFuel_of_refused (.inl (Nat.not_lt.mp hroom)),
        State.postNoticesFuel_of_refused (.inl (Nat.not_lt.mp hroom))]
    by_cases hdevice : s.hbi.device = .faulted
    case pos => rw [State.postNoticesFuel_of_refused (.inr hdevice), State.postNoticesFuel_of_refused (.inr hdevice)]
    obtain ⟨b, rfl⟩ : ∃ b', b = b' + 1 := ⟨b - 1, by omega⟩
    cases hnext : s.nextNotice with
    | none => rw [State.postNoticesFuel_of_none hnext, State.postNoticesFuel_of_none hnext]
    | some k =>
      rw [State.postNoticesFuel_of_some hroom hdevice hnext, State.postNoticesFuel_of_some hroom hdevice hnext]
      have hlength := s.postNotice_holding k
      exact ih (by omega) (by omega)

theorem State.postNotices_of_refused {s : State} (h : 16 ≤ s.writer.holding.length ∨ s.hbi.device = .faulted) :
    s.postNotices = s := State.postNoticesFuel_of_refused h _

theorem State.postNotices_of_none {s : State} (h : ∀ k, (s.station k).notice = false) : s.postNotices = s := by
  refine State.postNoticesFuel_of_none (List.find?_eq_none.mpr fun k _ => ?_) _
  rw [h k]
  decide

/-- With an entry free the scanner posts the notice of the next flagged slot, and claims on (R81, R151). -/
theorem State.postNotices_of_some {s : State} {k : SlotId} (hroom : s.writer.holding.length < 16)
    (hdevice : s.hbi.device ≠ .faulted) (h : s.nextNotice = some k) : s.postNotices = (s.postNotice k).postNotices := by
  have hlength := s.postNotice_holding k
  rw [State.postNotices, State.postNotices]
  refine (State.postNoticesFuel_of_some hroom hdevice h 15).trans (State.postNoticesFuel_congr (by omega) ?_)
  exact Nat.le_add_left _ _

/-! ### MODIFY STATION (R164, R82, R83) -/

/-- MODIFY STATION past its checks, at an entry in use (R164). -/
theorem exec_modifyStation_of_valid {s : State} {body : AdminBody} {k : SlotId} {new : Station} (h : s.AdminTakes)
    (hzero : ZeroFrom body 9) (hchecks : ∀ b ∈ modifyStationChecks body, b = false) (hk : argNat body 3 = k.val)
    (hnew : new = (s.station k).modify (argNat body 4) (argNat body 5) (argNat body 6) (argNat body 7) (argNat body 8 != 0))
    (tag : Half) :
    exec (.modifyStation tag body) s =
      .next (if (s.station k).state = .absent then s.adminTaken.adminEnd tag 0x05#8 .notFound 0 StationState.absent.code
        else
          let t := s.adminTaken.modStation k fun _ => new
          let c := adminCompletion tag 0x05#8 .done 0 0 0 new.state.code
          if (new.notice && !(s.station k).notice) = true then
            if t.freeValue % 2 = 0 then t.nextFree.postNotices.adminClaim c else (t.nextFree.adminClaim c).postNotices
          else t.adminClaim c).askFetch := by
  refine ((congrArg Host.Outcome.next (State.adminRow_of_takes h fun t => t.runModifyStation tag body)).trans
    (congrArg (fun u => Host.Outcome.next (State.askFetch u))
      (State.withArguments_of_valid (reservedNonzero_of_zeroFrom hzero) hchecks _ _ _ _))).trans ?_
  have hmod : (s.adminTaken.modStation k fun st =>
      st.modify (argNat body 4) (argNat body 5) (argNat body 6) (argNat body 7) (argNat body 8 != 0)) =
      s.adminTaken.modStation k fun _ => new := State.modStation_congr hnew.symm
  rw [hk, slotOf_val]
  simp only [hmod, State.modStation_station_self]
  rfl

/-- What a new threshold does to an entry, its other settings already replaced (R83). -/
theorem Station.adjustThreshold_eq (st : Station) :
    st.adjustThreshold =
      if (st.state = .probing ∨ st.state = .suspect) ∧ st.threshold ≤ st.failures then st.enterOffline
      else if st.state = .offline then { st with failures := st.threshold } else st := by
  rw [Station.adjustThreshold]
  cases st.state <;> simp

/-- Settles O35: the scanner's claims one by one, then the rows of MODIFY STATION by the entry's state and the new threshold. -/
theorem stationIsModified : Obligations.StationIsModified := by
  refine ⟨fun s => ⟨fun h => ?noClaim, fun k c hroom hdevice hnext hclaim => ?claim⟩,
    fun s tag body k htakes hzero hk hsettings => ?modify⟩
  case noClaim =>
    obtain h | h | h := h
    · exact State.postNotices_of_refused (.inl h)
    · exact State.postNotices_of_refused (.inr h)
    · exact State.postNotices_of_none h
  case claim =>
    have hc : s.noticeOf k = c := by
      rw [State.claimOf, hnext] at hclaim
      exact Option.some.inj hclaim
    rw [State.postNotices_of_some hroom hdevice hnext, State.postNotice_eq, hc]
  case modify =>
    intro t old set offline
    have ⟨_, _, _, _, henable⟩ := hsettings
    have hchecks : ∀ b ∈ modifyStationChecks body, b = false := by
      have hslot : outside 0 127 (argNat body 3) = false := outside_of_mem (Nat.zero_le _) (by omega)
      simpa [modifyStationChecks, hslot] using stationSettingChecks_of_valid hsettings
    have hmodify : old.modify (argNat body 4) (argNat body 5) (argNat body 6) (argNat body 7) (argNat body 8 != 0) =
        set.adjustThreshold := by
      rw [bne_zero_eq_beq_one henable]
      rfl
    have hrun := fun (new : Station) (hnew : set.adjustThreshold = new) =>
      exec_modifyStation_of_valid htakes hzero hchecks hk (hmodify.trans hnew).symm tag
    have hkeep : ∀ new : Station, set.adjustThreshold = new → old.state ≠ .absent → (new.notice && !old.notice) = false →
        exec (.modifyStation tag body) s =
          .next ((t.modStation k fun _ => new).adminClaim (adminCompletion tag 0x05#8 .done 0 0 0 new.state.code)).askFetch :=
      fun new hnew hused hnotice => (hrun new hnew).trans (congrArg (fun u => Host.Outcome.next (State.askFetch u))
        ((if_neg hused).trans (if_neg (by rw [hnotice]; decide))))
    have hadjust := set.adjustThreshold_eq
    refine ⟨fun habsent => ?absent, fun h => ?settings, fun hoff => ?off, fun hstate hover => ⟨fun hflag => ?flagged, fun hflag => ?flag⟩⟩
    case absent => exact (hrun _ rfl).trans (congrArg (fun u => Host.Outcome.next (State.askFetch u)) (if_pos habsent))
    case settings =>
      have hsame : set.adjustThreshold = set := by
        rw [hadjust, if_neg, if_neg]
        · obtain h | h | ⟨h | h, _⟩ := h <;> rw [show set.state = _ from h] <;> decide
        · rintro ⟨hstate, hover⟩
          obtain h | h | ⟨_, h⟩ := h
          · rw [show set.state = _ from h] at hstate
            simp at hstate
          · rw [show set.state = _ from h] at hstate
            simp at hstate
          · exact absurd hover (Nat.not_le.mpr h)
      refine hkeep set hsame ?_ (Bool.and_not_self _)
      obtain h | h | ⟨h | h, _⟩ := h <;> rw [h] <;> decide
    case off =>
      have hsame : set.adjustThreshold = { set with failures := argNat body 6 } := by
        rw [hadjust, if_neg (by rw [show set.state = _ from hoff]; simp), if_pos hoff]
      refine (hkeep _ hsame (by rw [hoff]; decide) (Bool.and_not_self _)).trans ?_
      rw [show (StationState.code ({ set with failures := argNat body 6 } : Station).state) = StationState.code old.state from rfl, hoff]
      rfl
    all_goals
      have hsame : set.adjustThreshold = offline := by
        rw [hadjust, if_pos ⟨hstate, hover⟩]
        rfl
      have hused : old.state ≠ .absent := by
        obtain h | h := hstate <;> rw [h] <;> decide
    case flagged => exact hkeep offline hsame hused (by rw [hflag]; rfl)
    case flag =>
      intro u c
      have hnew := (hrun offline hsame).trans (congrArg (fun v => Host.Outcome.next (State.askFetch v))
        ((if_neg hused).trans (if_pos (show (offline.notice && !old.notice) = true by rw [hflag]; rfl))))
      by_cases hfree : (s.adminTaken.modStation k fun _ => offline).freeValue % 2 = 0
      · exact .inl (hnew.trans (congrArg (fun v => Host.Outcome.next (State.askFetch v)) (if_pos hfree)))
      · exact .inr (hnew.trans (congrArg (fun v => Host.Outcome.next (State.askFetch v)) (if_neg hfree)))

/-! ### READ STATION, READ LINE and the poll commands (R168 to R171) -/

theorem exec_readStation_of_valid {s : State} {body : AdminBody} {k : SlotId} (h : s.AdminTakes) (hk : argNat body 3 = k.val)
    (hzero : ZeroFrom body 8) (haddress : (argWord body 4).toNat % 32 = 0) (tag : Half) :
    exec (.readStation tag body) s =
      .next (s.adminTaken.setAdmin (.writing tag (.readStation k (argWord body 4) none))).askFetch := by
  refine ((congrArg Host.Outcome.next (State.adminRow_of_takes h fun t => t.runReadStation tag body)).trans
    (congrArg (fun u => Host.Outcome.next (State.askFetch u))
      (State.withArguments_of_valid (reservedNonzero_of_zeroFrom hzero)
        (by simp [outside_of_mem, hk, Nat.le_of_lt_succ k.isLt, haddress]) _ _ _ _))).trans ?_
  rw [hk, slotOf_val]

theorem exec_readLine_of_valid {s : State} {body : AdminBody} {n : LineId} (h : s.AdminTakes) (hn : argNat body 3 = n.val)
    (hzero : ZeroFrom body 8) (haddress : (argWord body 4).toNat % 32 = 0) (tag : Half) :
    exec (.readLine tag body) s =
      .next (s.adminTaken.setAdmin (.writing tag (.readLine n (argWord body 4) none))).askFetch := by
  refine ((congrArg Host.Outcome.next (State.adminRow_of_takes h fun t => t.runReadLine tag body)).trans
    (congrArg (fun u => Host.Outcome.next (State.askFetch u))
      (State.withArguments_of_valid (reservedNonzero_of_zeroFrom hzero)
        (by simp [outside_of_mem, hn, Nat.le_of_lt_succ n.isLt, haddress]) _ _ _ _))).trans ?_
  rw [hn, lineOf_val]

/-- The id DEFINE POLL fills: the one named, or with FFh the lowest FREE one (R169). -/
theorem State.idToFill_of_id (s : State) {id : PollId} {arg : Nat} (h : id.val = arg) : s.idToFill arg = some id := by
  have harg : arg ≠ anyFF := by
    have := id.isLt
    rw [anyFF]
    omega
  rw [State.idToFill, if_neg harg, ← h, pollOf_val]

theorem State.idToFill_eq_some {s : State} {id : PollId} {arg : Nat} (hfree : (s.poll id).state = .free)
    (h : id.val = arg ∨ (arg = 255 ∧ ∀ m, m < id → (s.poll m).state ≠ .free)) : s.idToFill arg = some id := by
  obtain h | ⟨h, hbefore⟩ := h
  · exact s.idToFill_of_id h
  · rw [State.idToFill, if_pos (show arg = anyFF from h)]
    exact find?_finRange_of_first (beq_iff_eq.mpr hfree) fun j hj => beq_eq_false_iff_ne.mpr (hbefore j hj)

/-- The argument checks of DEFINE POLL pass (R169). -/
def DefinePollValid (body : AdminBody) : Prop := argNat body 8 < 16 ∧ ∀ b ∈ definePollChecks body, b = false

theorem exec_definePoll_of_full {s : State} {body : AdminBody} (h : s.AdminTakes) (hvalid : DefinePollValid body)
    (hfill : s.idToFill (argNat body 3) = none) (tag : Half) :
    exec (.definePoll tag body) s = .next (s.adminTaken.adminEnd tag 0x0A#8 .noSpace 0 noStationCode).askFetch := by
  obtain ⟨hreserved, hchecks⟩ := hvalid
  have hfill' : s.adminTaken.idToFill (argNat body 3) = none := hfill
  refine ((congrArg Host.Outcome.next (State.adminRow_of_takes h fun t => t.runDefinePoll tag body)).trans
    (congrArg (fun u => Host.Outcome.next (State.askFetch u))
      (State.withArguments_of_valid (decide_eq_false (Nat.not_le.mpr hreserved)) hchecks _ _ _ _))).trans ?_
  simp only [hfill']

/-- DEFINE POLL past its checks, with an id to fill (R169). -/
theorem exec_definePoll_of_id {s : State} {body : AdminBody} {id : PollId} (h : s.AdminTakes) (hvalid : DefinePollValid body)
    (hfill : s.idToFill (argNat body 3) = some id) (tag : Half) :
    exec (.definePoll tag body) s =
      .next (if (s.poll id).state ≠ .free then s.adminTaken.adminEnd tag 0x0A#8 .inUse 0 noStationCode
        else if s.pollPlaceMissing (definePollArguments body id) then s.adminTaken.adminEnd tag 0x0A#8 .notFound 0 noStationCode
        else s.adminTaken.setAdmin (.writing tag (.definePoll (definePollArguments body id)))).askFetch := by
  obtain ⟨hreserved, hchecks⟩ := hvalid
  have hfill' : s.adminTaken.idToFill (argNat body 3) = some id := hfill
  refine ((congrArg Host.Outcome.next (State.adminRow_of_takes h fun t => t.runDefinePoll tag body)).trans
    (congrArg (fun u => Host.Outcome.next (State.askFetch u))
      (State.withArguments_of_valid (decide_eq_false (Nat.not_le.mpr hreserved)) hchecks _ _ _ _))).trans ?_
  simp only [hfill']
  rfl

/-- The placement argument: none with FFh, otherwise the entry it names (R169). -/
theorem definePoll_before {arg : Nat} (h : arg ≤ 95 ∨ arg = 255) :
    (if arg = anyFF then none else some (pollOf arg)) = if h : arg < 96 then some (⟨arg, h⟩ : PollId) else none := by
  obtain h | h := h
  · rw [if_neg (by rw [anyFF]; omega), dif_pos (by omega)]
    exact congrArg some (pollOf_val ⟨arg, by omega⟩)
  · rw [h]
    rfl

theorem definePollMode_eq {body : AdminBody} (h : argNat body 8 < 16) :
    definePollMode body = [ReportMode.never, .always, .onChange, .onError].getD (argNat body 8 / 4) .never := by
  rw [definePollMode]
  generalize argNat body 8 = m at h
  interval_cases m <;> rfl

/-- The station of DEFINE POLL is of its line and the entry it is placed before in that line's list, or the command is refused (R169). -/
theorem State.pollPlaceMissing_iff (s : State) (a : PollArguments) :
    s.pollPlaceMissing a = true ↔
      ¬((s.station a.station).state ≠ .absent ∧ (s.station a.station).line = a.line ∧
        ∀ b, a.before = some b → b ∈ (s.line a.line).pollList) := by
  rw [State.pollPlaceMissing]
  cases a.before <;> simp <;> grind

theorem exec_deletePoll_of_valid {s : State} {body : AdminBody} {id : PollId} (h : s.AdminTakes) (hzero : ZeroFrom body 4)
    (hid : argNat body 3 = id.val) (tag : Half) :
    exec (.deletePoll tag body) s =
      .next (if (s.poll id).state = .free then s.adminTaken.adminEnd tag 0x0B#8 .notFound 0 noStationCode
        else if (s.poll id).state = .idle ∨ (s.poll id).state = .due then (s.adminTaken.freePoll id).adminDone tag 0x0B#8
        else (s.adminTaken.modPoll id fun p => { p with state := .deleting, dueAgain := false }).setAdmin
          (.deferred tag (.deletePoll id))).askFetch := by
  refine ((congrArg Host.Outcome.next (State.adminRow_of_takes h fun t => t.runDeletePoll tag body)).trans
    (congrArg (fun u => Host.Outcome.next (State.askFetch u))
      (State.withArguments_of_valid (reservedNonzero_of_zeroFrom hzero)
        (by simp [outside_of_mem, hid, Nat.le_of_lt_succ id.isLt]) _ _ _ _))).trans ?_
  have hpoll : s.adminTaken.poll id = s.poll id := rfl
  rw [hid, pollOf_val]
  simp only [hpoll]
  cases (s.poll id).state <;> rfl

/-- Settles O37: each command past its checks, DEFINE POLL with the id it fills. -/
theorem readsAndPollCommands : Obligations.ReadsAndPollCommands := by
  refine ⟨fun s tag body htakes => ⟨fun k hk hzero haddress => exec_readStation_of_valid htakes hk hzero haddress tag,
      fun n hn hzero haddress => exec_readLine_of_valid htakes hn hzero haddress tag, ?define⟩,
    fun s tag body id htakes hzero hid => ?delete⟩
  case define =>
    intro hreserved hid hstation hfun1 hfun2 htemplate haddress hcapacity hphase hbefore
    have hvalid : DefinePollValid body := by
      have hidCheck : (outside 0 95 (argNat body 3) && argNat body 3 != anyFF) = false := by
        obtain h | h := hid
        · rw [outside_of_mem (Nat.zero_le _) h, Bool.false_and]
        · rw [h]
          rfl
      have hbeforeCheck : (outside 0 95 (argNat body 15) && argNat body 15 != anyFF) = false := by
        obtain h | h := hbefore
        · rw [outside_of_mem (Nat.zero_le _) h, Bool.false_and]
        · rw [h]
          rfl
      have hfunction : hostFunction (argByte body 10) = true :=
        Bool.and_eq_true_iff.mpr ⟨decide_eq_true hfun1, decide_eq_true hfun2⟩
      have hdivisor1 : 1 ≤ argNat body 13 := by omega
      have hdivisor2 : argNat body 13 ≤ 255 := Nat.le_of_lt_succ (argByte body 13).isLt
      refine ⟨hreserved, ?_⟩
      simp [definePollChecks, hidCheck, hbeforeCheck, hfunction, outside_of_mem, hstation, htemplate, haddress, hcapacity, hdivisor1,
        hdivisor2, hphase]
    refine ⟨fun hff hall => ?noSpace, fun id hk htaken => ?inUse, fun id n k hfree hk hn hstationId => ?free⟩
    case noSpace =>
      have hnone : s.idToFill (argNat body 3) = none := by
        rw [State.idToFill, if_pos (show argNat body 3 = anyFF from hff)]
        exact find?_finRange_none fun m => beq_eq_false_iff_ne.mpr (hall m)
      exact exec_definePoll_of_full htakes hvalid hnone tag
    case inUse =>
      rw [exec_definePoll_of_id htakes hvalid (s.idToFill_of_id hk)]
      exact congrArg (fun u => Host.Outcome.next (State.askFetch u)) (if_pos htaken)
    case free =>
      intro here
      have harguments : definePollArguments body id =
          { id := id, line := n, station := k, function := argByte body 10
            template := (List.range (argNat body 11)).map fun j => argByte body (16 + j), slotAddress := argWord body 4
            capacity := argNat body 12, divisor := argNat body 13, phase := argNat body 14
            mode := [ReportMode.never, .always, .onChange, .onError].getD (argNat body 8 / 4) .never
            before := if h : argNat body 15 < 96 then some ⟨argNat body 15, h⟩ else none } := by
        rw [definePollArguments, definePollLine, ← hn, lineOf_val, ← hstationId, slotOf_val, definePoll_before hbefore,
          definePollMode_eq hreserved]
      have hhere : s.pollPlaceMissing (definePollArguments body id) = true ↔ ¬here := by
        rw [State.pollPlaceMissing_iff, harguments]
        refine not_congr (and_congr_right fun _ => and_congr_right fun _ => forall_congr' fun b => ?_)
        refine imp_congr_left ⟨fun h => ?_, fun h => ?_⟩
        · split at h
          · exact (congrArg Fin.val (Option.some.inj h)).symm
          · cases h
        · simp only [← h, b.isLt, dite_true]
      rw [exec_definePoll_of_id htakes hvalid (State.idToFill_eq_some hfree hk)]
      refine ⟨fun h => ?_, fun h => ?_⟩
      · exact congrArg (fun u => Host.Outcome.next (State.askFetch u))
          ((if_neg (not_not.mpr hfree)).trans (if_pos (hhere.mpr h)))
      · rw [← harguments]
        exact congrArg (fun u => Host.Outcome.next (State.askFetch u))
          ((if_neg (not_not.mpr hfree)).trans (if_neg fun k => hhere.mp k h))
  case delete =>
    intro t
    have hrun := exec_deletePoll_of_valid htakes hzero hid tag
    refine ⟨fun h => ?_, fun h => ?_, fun h => ?_⟩
    · exact hrun.trans (congrArg (fun u => Host.Outcome.next (State.askFetch u)) (if_pos h))
    · have hused : (s.poll id).state ≠ .free := by
        obtain h | h := h <;> rw [h] <;> decide
      exact hrun.trans (congrArg (fun u => Host.Outcome.next (State.askFetch u)) ((if_neg hused).trans (if_pos h)))
    · refine hrun.trans (congrArg (fun u => Host.Outcome.next (State.askFetch u)) ((if_neg ?_).trans (if_neg ?_))) <;>
        rw [h] <;> decide

/-! ### Records refused (R156 steps 1 and 2) -/

theorem ofLe32_toNat (b0 b1 b2 b3 : Byte) :
    (ofLe32 b0 b1 b2 b3).toNat = b0.toNat + 256 * b1.toNat + 65536 * (b2.toNat + 256 * b3.toNat) := by
  have h0 := b0.isLt
  have h1 := b1.isLt
  have h2 := b2.isLt
  rw [ofLe32, BitVec.toNat_append, BitVec.toNat_append, BitVec.toNat_append, ← Nat.shiftLeft_add_eq_or_of_lt h0,
    ← Nat.shiftLeft_add_eq_or_of_lt h1, ← Nat.shiftLeft_add_eq_or_of_lt h2]
  simp only [Nat.shiftLeft_eq]
  omega

theorem argHalf_toNat (body : AdminBody) (k : Nat) :
    (argHalf body k).toNat = argNat body k + 256 * argNat body (k + 1) := ofLe16_toNat _ _

theorem argWord_toNat (body : AdminBody) (k : Nat) :
    (argWord body k).toNat =
      argNat body k + 256 * argNat body (k + 1) + 65536 * (argNat body (k + 2) + 256 * argNat body (k + 2 + 1)) :=
  ofLe32_toNat _ _ _ _

theorem hostFunction_eq_not_outside (f : Byte) : (!hostFunction f) = decide (f.toNat < 1 ∨ 0x6F < f.toNat) := by
  rw [hostFunction, ← Bool.decide_and, ← decide_not]
  exact decide_eq_decide.mpr (by omega)

theorem reservedFrom_iff (body : AdminBody) (a : Nat) :
    reservedNonzero body (offsetsFrom a) = true ↔ ∃ k, a ≤ k ∧ k < 32 ∧ argNat body k ≠ 0 := by
  simp only [reservedNonzero_iff, mem_offsetsFrom, and_assoc]

theorem exec_badCommand_of_known {code : Byte} (h1 : 1 ≤ code.toNat) (h14 : code.toNat ≤ 14) (s : State) (tag : Half)
    (body : AdminBody) : exec (.badCommand tag code body) s = .next s :=
  congrArg Host.Outcome.next (if_pos (by rw [knownCode, outside_of_mem h1 h14]; rfl))

theorem exec_badCommand_of_unknown {s : State} {code : Byte} (htakes : s.AdminTakes) (h : code.toNat = 0 ∨ 14 < code.toNat)
    (tag : Half) (body : AdminBody) :
    exec (.badCommand tag code body) s =
      .next (s.adminTaken.adminClaim (adminCompletion tag code .badCommand 0 0 0 7)).askFetch := by
  have hunknown : knownCode code = false := by
    rw [knownCode, outside_eq, decide_eq_true (by omega)]
    rfl
  refine (congrArg Host.Outcome.next (if_neg (by rw [hunknown]; decide))).trans ?_
  exact congrArg Host.Outcome.next (State.adminRow_of_takes htakes fun t => t.runBadCommand tag code)

/-- A row whose record is refused: argument 0 for a reserved byte, otherwise the first argument out of range (R156 step 2). -/
theorem refused_of_row {s : State} {c : Instr} {tag : Half} {code : Byte} {reserved : Bool} {checks bad : List Bool}
    {rest : State → State} {R : Prop}
    (hrow : exec c s = .next (s.adminTaken.withArguments tag code (argumentFault reserved checks) rest).askFetch)
    (hreserved : reserved = true ↔ R) (hchecks : checks = bad) :
    (R → exec c s =
      .next (s.adminTaken.adminClaim (adminCompletion tag code .badArgument (BitVec.ofNat 8 0) 0 0 7)).askFetch) ∧
    (¬R → ∀ k, 1 ≤ k ∧ bad[k - 1]? = some true ∧ (∀ j, 1 ≤ j → j < k → bad[j - 1]? = some false) →
      exec c s = .next (s.adminTaken.adminClaim (adminCompletion tag code .badArgument (BitVec.ofNat 8 k) 0 0 7)).askFetch) := by
  subst hchecks
  refine ⟨fun h => ?_, fun h k ⟨hk, htrue, hbefore⟩ => ?_⟩
  · rw [hrow, State.withArguments_of_reserved (hreserved.mpr h)]
    rfl
  · have hfalse : reserved = false := Bool.eq_false_iff.mpr fun k => h (hreserved.mp k)
    have hbefore' : ∀ j, j < k - 1 → checks[j]? = some false := fun j hj => hbefore (j + 1) (by omega) (by omega)
    rw [hrow, State.withArguments_of_first hfalse htrue hbefore', Nat.sub_add_cancel hk]
    rfl

/-- Settles O40: every row is one use of `refused_of_row`, its checks the list of R160 to R173. -/
theorem badRecordsAreRefused : Obligations.BadRecordsAreRefused := by
  refine ⟨fun s tag code body h1 h14 => exec_badCommand_of_known h1 h14 s tag body, fun s tag body htakes => ?_⟩
  intro t refuse arg half word out settings first checked from'
  have row : ∀ run : State → State, (.next (s.adminRow run) : Host.Outcome State Fault Refusal) = .next (run t).askFetch := fun run =>
    congrArg Host.Outcome.next (State.adminRow_of_takes htakes run)
  have hfrom : ∀ a, reservedNonzero body (offsetsFrom a) = true ↔ from' a := reservedFrom_iff body
  have hhalf : ∀ k, (argHalf body k).toNat = half k := argHalf_toNat body
  have hword : ∀ k, (argWord body k).toNat = word k := argWord_toNat body
  have hsettings : ∀ k, stationSettingChecks body k = settings k := fun k => by
    simp only [stationSettingChecks, outside_eq]
    rfl
  refine ⟨fun code h => exec_badCommand_of_unknown htakes h tag body,
    refused_of_row (row fun t => t.runConfigureLine tag body) (hfrom 18) ?configure,
    refused_of_row (row fun t => t.runStartLine tag body) (hfrom 4) ?start,
    refused_of_row (row fun t => t.runStopLine tag body) (hfrom 5) ?stop,
    refused_of_row (row fun t => t.runDefineStation tag body) (hfrom 11) ?defineStation,
    refused_of_row (row fun t => t.runModifyStation tag body) (hfrom 9) ?modify,
    refused_of_row (row fun t => t.runRemoveStation tag body) (hfrom 4) ?remove,
    refused_of_row (row fun t => t.runHoldStation tag body) (hfrom 4) ?hold,
    refused_of_row (row fun t => t.runReleaseStation tag body) (hfrom 4) ?release,
    refused_of_row (row fun t => t.runReadStation tag body) (hfrom 8) ?readStation,
    refused_of_row (row fun t => t.runDefinePoll tag body) decide_eq_true_iff ?definePoll,
    refused_of_row (row fun t => t.runDeletePoll tag body) (hfrom 4) ?deletePoll,
    refused_of_row (row fun t => t.runReadLine tag body) (hfrom 8) ?readLine,
    refused_of_row (row fun t => t.runSetCapture tag body) ?captureReserved ?setCapture,
    refused_of_row (row fun t => t.runRestartRing tag body) (hfrom 6) ?restart⟩
  case configure =>
    simp only [configureLineChecks, outside_eq, hhalf]
    rfl
  case defineStation =>
    simp only [defineStationChecks, outside_eq, hsettings]
    rfl
  case modify =>
    simp only [modifyStationChecks, outside_eq, hsettings]
    rfl
  case definePoll =>
    simp only [definePollChecks, outside_eq, hostFunction_eq_not_outside, hword]
    rfl
  case captureReserved =>
    rw [reservedNonzero_iff]
    simp only [List.mem_append, List.mem_cons, List.not_mem_nil, or_false, mem_offsetsFrom, or_and_right, exists_or,
      exists_eq_left, or_assoc, and_assoc]
    rfl
  case setCapture =>
    simp only [setCaptureChecks, outside_eq, hword]
    rfl
  case readStation | readLine =>
    simp only [outside_eq, hword]
    rfl
  all_goals
    simp only [outside_eq]
    rfl

end Sys2Proof.Machine
end

section
/-! PROOFS. What the operations shared by stopping, halting and faults leave alone: reservations returned (R124), marks cleared (R95), a fetch voided
(R147). -/

namespace Sys2Proof.Machine

/-! ### Reservations returned (R124, R126) -/

/-- Reservations of r bytes have been returned: nothing has changed but the reserved bytes, the paused flag and CAPTURE_EVENT. -/
structure State.Returns (r : Nat) (s t : State) : Prop where
  state : t = { s with
    capture := { s.capture with reserved := s.capture.reserved - r, paused := t.capture.paused }
    hbi := { s.hbi with attention := t.hbi.attention } }
  others : ∀ i : Fin 7, i ≠ 2 → t.hbi.attention[i] = s.hbi.attention[i]
  latched : s.hbi.attention[2] = true → t.hbi.attention[2] = true

namespace State.Returns

variable {r q : Nat} {s t u : State}

theorem refl (s : State) : State.Returns 0 s s := ⟨rfl, fun _ _ => rfl, id⟩

theorem trans (h : State.Returns r s t) (k : State.Returns q t u) : State.Returns (r + q) s u := by
  refine ⟨?_, fun i hi => (k.others i hi).trans (h.others i hi), fun hs => k.latched (h.latched hs)⟩
  have hu := k.state
  rw [h.state] at hu
  rw [← Nat.sub_sub]
  exact hu

theorem capture (h : State.Returns r s t) :
    t.capture = { s.capture with reserved := s.capture.reserved - r, paused := t.capture.paused } :=
  (congrArg State.capture h.state :)

theorem hbi (h : State.Returns r s t) : t.hbi = { s.hbi with attention := t.hbi.attention } := (congrArg State.hbi h.state :)
theorem lines (h : State.Returns r s t) : t.lines = s.lines := (congrArg State.lines h.state :)
theorem stations (h : State.Returns r s t) : t.stations = s.stations := (congrArg State.stations h.state :)
theorem polls (h : State.Returns r s t) : t.polls = s.polls := (congrArg State.polls h.state :)
theorem writer (h : State.Returns r s t) : t.writer = s.writer := (congrArg State.writer h.state :)
theorem admin (h : State.Returns r s t) : t.admin = s.admin := (congrArg State.admin h.state :)
theorem ringUnit (h : State.Returns r s t) : t.ringUnit = s.ringUnit := (congrArg State.ringUnit h.state :)

end State.Returns

/-- CAPTURE_EVENT latched with the paused flag set or cleared (R126). -/
theorem State.returns_pause (s : State) (paused : Bool) :
    State.Returns 0 s ((s.modCapture fun c => { c with paused := paused }).latch .captureEvent) := by
  refine ⟨rfl, fun i hi => ?_, fun h => (State.latch_attention_getElem _ _ (2 : Fin 7)).trans (Bool.or_true _)⟩
  have hindex : (i.val == Cause.captureEvent.index) = false := beq_false_of_ne fun k => hi (Fin.ext k)
  rw [State.latch_attention_getElem, hindex, Bool.or_false]
  rfl

theorem State.evaluatePause_returns (s : State) : State.Returns 0 s s.evaluatePause := by
  rw [State.evaluatePause]
  cases s.capture.holdConfig with
  | none => exact .refl s
  | some g =>
    dsimp only
    split
    · exact s.returns_pause true
    · split
      · exact s.returns_pause false
      · exact .refl s

theorem State.returns_bytes (s : State) (r : Nat) :
    State.Returns r s (s.modCapture fun c => { c with reserved := c.reserved - r }).evaluatePause := by
  have h := (s.modCapture fun c => { c with reserved := c.reserved - r }).evaluatePause_returns
  exact ⟨h.state, h.others, h.latched⟩

theorem State.returnReservation_returns (s : State) : State.Returns 144 s s.returnReservation := s.returns_bytes 144

/-- The bytes a follow-up entry has reserved (R122). -/
def FollowUp.reserved (f : FollowUp) : Nat := if f.kind == .eventFetch then 144 else 0

theorem State.returnFor_returns (s : State) (f : FollowUp) : State.Returns f.reserved s (s.returnFor f) := by
  rw [State.returnFor, FollowUp.reserved]
  cases f.kind with
  | eventFetch => exact s.returnReservation_returns
  | probe => exact .refl s

theorem State.foldl_returnFor_returns (fs : List FollowUp) (s : State) :
    State.Returns (144 * (fs.filter fun f => f.kind == .eventFetch).length) s (fs.foldl State.returnFor s) := by
  induction fs generalizing s with
  | nil => exact .refl s
  | cons f fs ih =>
    have hsum : 144 * ((f :: fs).filter fun f => f.kind == .eventFetch).length =
        f.reserved + 144 * (fs.filter fun f => f.kind == .eventFetch).length := by
      rw [List.filter_cons, FollowUp.reserved]
      split
      · rw [List.length_cons, Nat.mul_succ, Nat.add_comm]
      · rw [Nat.zero_add]
    rw [hsum]
    exact (s.returnFor_returns f).trans (ih _)

/-- Without an EVENT_FETCH nothing is returned (R110). -/
theorem State.foldl_returnFor_of_none {fs : List FollowUp} (h : ∀ f ∈ fs, f.kind ≠ .eventFetch) (s : State) :
    fs.foldl State.returnFor s = s := by
  induction fs generalizing s with
  | nil => rfl
  | cons f fs ih =>
    have hprobe : s.returnFor f = s := by
      have hkind := h f List.mem_cons_self
      rw [State.returnFor]
      cases hk : f.kind with
      | eventFetch => exact absurd hk hkind
      | probe => rfl
    rw [List.foldl_cons, hprobe]
    exact ih (fun g hg => h g (List.mem_cons_of_mem f hg)) s

/-- Follow-up entries that leave: the line's queue without them, and their reservations returned (R110, R124). -/
theorem State.dropFollowUps_returns (s : State) (n : LineId) (gone : FollowUp → Bool) :
    State.Returns (144 * (((s.line n).followUp.filter gone).filter fun f => f.kind == .eventFetch).length)
      (s.modLine n fun l => { l with followUp := l.followUp.filter fun f => !gone f }) (s.dropFollowUps n gone) :=
  State.foldl_returnFor_returns _ _

theorem State.dropFollowUps_line (s : State) (n : LineId) (gone : FollowUp → Bool) (m : LineId) :
    (s.dropFollowUps n gone).line m =
      if n = m then { s.line m with followUp := (s.line m).followUp.filter fun f => !gone f } else s.line m := by
  rw [State.line_congr (s.dropFollowUps_returns n gone).lines, State.modLine_line]

/-! ### Marks cleared and a fetch voided (R95, R147) -/

theorem Poll.unmark_unmark (p : Poll) : p.unmark.unmark = p.unmark := by
  obtain ⟨state⟩ := p
  cases state <;> rfl

theorem State.foldl_unmark_poll (ids : List PollId) (s : State) (id : PollId) :
    (ids.foldl (fun t id => t.modPoll id Poll.unmark) s).poll id = if id ∈ ids then (s.poll id).unmark else s.poll id := by
  induction ids generalizing s with
  | nil => rfl
  | cons a ids ih =>
    rw [List.foldl_cons, ih, State.modPoll_poll]
    by_cases ha : a = id
    · subst ha
      simp [Poll.unmark_unmark]
    · simp [ha, Ne.symm ha]

/-- Clearing marks touches the poll entries alone (R95). -/
theorem State.foldl_unmark_eq (ids : List PollId) (s : State) :
    ids.foldl (fun t id => t.modPoll id Poll.unmark) s =
      { s with polls := (ids.foldl (fun t id => t.modPoll id Poll.unmark) s).polls } := by
  induction ids generalizing s with
  | nil => rfl
  | cons a ids ih => exact ih (s.modPoll a Poll.unmark)

theorem State.clearMarks_poll (n : LineId) (s : State) (id : PollId) :
    (State.clearMarks n s).poll id = if id ∈ (s.line n).pollList then (s.poll id).unmark else s.poll id :=
  State.foldl_unmark_poll _ s id

theorem State.clearMarks_eq (n : LineId) (s : State) : State.clearMarks n s = { s with polls := (State.clearMarks n s).polls } :=
  State.foldl_unmark_eq _ s

/-- A record fetch under way whose ring satisfies a test. -/
def State.fetches (s : State) (test : RingId → Bool) : Bool :=
  match s.hbi.burst with
  | some b =>
    match b.owner with
    | .ringFetch r => test r
    | _ => false
  | none => false

theorem State.voidFetch_eq (s : State) (test : RingId → Bool) :
    s.voidFetch test = s.modRingUnit fun u => { u with fetchVoid := u.fetchVoid || s.fetches test } := by
  have hfalse : s = s.modRingUnit fun u => { u with fetchVoid := u.fetchVoid || false } := by simp [State.modRingUnit]
  have htrue : (s.modRingUnit fun u => { u with fetchVoid := true }) =
      s.modRingUnit fun u => { u with fetchVoid := u.fetchVoid || true } := by simp
  rw [State.voidFetch, State.fetches]
  cases s.hbi.burst with
  | none => exact hfalse
  | some b =>
    obtain ⟨owner, address, length, data⟩ := b
    cases owner with
    | ringFetch r =>
      dsimp only
      cases test r with
      | false => exact hfalse
      | true => exact htrue
    | _ => exact hfalse

theorem State.fetches_ring (s : State) (r : RingId) : (s.fetches fun q => q == r) = s.burstOf (.ringFetch r) := by
  rw [State.fetches, State.burstOf]
  cases s.hbi.burst with
  | none => rfl
  | some b =>
    simp only [Option.any_some]
    cases b.owner with
    | ringFetch q => exact decide_eq_decide.mpr ⟨fun h => congrArg _ h, fun h => by injection h⟩
    | _ => rfl

theorem State.fetches_of_burst {s : State} {r : RingId} (h : s.burstOf (.ringFetch r) = true) :
    (s.fetches fun _ => true) = true := by
  rw [State.burstOf, Option.any_eq_true] at h
  obtain ⟨b, hb, howner⟩ := h
  rw [beq_iff_eq] at howner
  simp only [State.fetches, hb, howner]

end Sys2Proof.Machine
end

section
/-! PROOFS. STOP LINE (R39 to R41, R162): what setting STOPPING changes, the table of a CUT, and the prefetched requests completed ABORTED. -/

namespace Sys2Proof.Machine

/-! ### STOPPING set (R39, R95, R147) -/

/-- A line as STOP LINE leaves it: STOPPING, its follow-up queue empty and its cycle timer stopped (R39). -/
def Line.stopped (l : Line) (mode : StopMode) : Line :=
  { l with stopping := some mode, cycleTimer := .stopped, followUp := [] }

/-- The state before the marks and the fetch of a STOP LINE: its line stopped, its reservations returned. -/
def State.dropForStop (s : State) (n : LineId) (mode : StopMode) : State :=
  (s.modLine n fun l => { l with stopping := some mode, cycleTimer := .stopped }).dropFollowUps n fun _ => true

theorem State.setStopping_eq (s : State) (n : LineId) (mode : StopMode) :
    s.setStopping n mode =
      { s.dropForStop n mode with
        polls := (State.clearMarks n (s.dropForStop n mode)).polls
        ringUnit := { (s.dropForStop n mode).ringUnit with
          claim := (s.dropForStop n mode).ringUnit.claim.filter fun q => q.1 != n
          fetchVoid := (s.dropForStop n mode).ringUnit.fetchVoid || (s.dropForStop n mode).burstOf (.ringFetch n.succ) } } := by
  have hmarks := State.clearMarks_eq n (s.dropForStop n mode)
  rw [State.setStopping, ← State.dropForStop, State.voidFetch_eq, State.fetches_ring]
  generalize State.clearMarks n (s.dropForStop n mode) = c at hmarks ⊢
  rw [hmarks]
  rfl

theorem State.dropForStop_returns (s : State) (n : LineId) (mode : StopMode) :
    State.Returns (144 * ((s.line n).followUp.filter fun f => f.kind == .eventFetch).length)
      (s.modLine n fun l => l.stopped mode) (s.dropForStop n mode) := by
  have h := (s.modLine n fun l => { l with stopping := some mode, cycleTimer := .stopped }).dropFollowUps_returns n fun _ => true
  rw [State.modLine_modLine, State.modLine_line_self, List.filter_true] at h
  have hempty : (fun l : Line => { l with
      stopping := some mode, cycleTimer := .stopped, followUp := l.followUp.filter fun _ => !true }) = fun l => l.stopped mode := by
    funext l
    rw [Line.stopped, Bool.not_true, List.filter_false]
  rw [hempty] at h
  exact h

theorem State.dropForStop_of_none {s : State} {n : LineId} (h : ∀ f ∈ (s.line n).followUp, f.kind ≠ .eventFetch) (mode : StopMode) :
    (s.dropForStop n mode).capture = s.capture ∧ (s.dropForStop n mode).hbi = s.hbi := by
  rw [State.dropForStop, State.dropFollowUps, State.modLine_line_self, List.filter_true, State.foldl_returnFor_of_none h]
  exact ⟨rfl, rfl⟩

theorem claim_filter_eq (claim : Option (LineId × Completion)) (n : LineId) :
    (claim.filter fun q => q.1 != n) = if claim.any (fun q => q.1 == n) then none else claim := by
  cases claim with
  | none => rfl
  | some q => by_cases h : q.1 = n <;> simp [h]

theorem State.setStopping_line_self (s : State) (n : LineId) (mode : StopMode) :
    (s.setStopping n mode).line n = (s.line n).stopped mode := by
  rw [State.setStopping_eq]
  change (s.dropForStop n mode).line n = _
  rw [State.line_congr (s.dropForStop_returns n mode).lines, State.modLine_line_self]

theorem State.setStopping_line_other {n m : LineId} (h : m ≠ n) (s : State) (mode : StopMode) :
    (s.setStopping n mode).line m = s.line m := by
  rw [State.setStopping_eq]
  change (s.dropForStop n mode).line m = _
  rw [State.line_congr (s.dropForStop_returns n mode).lines, State.modLine_line, if_neg (Ne.symm h)]

theorem State.setStopping_poll (s : State) (n : LineId) (mode : StopMode) (id : PollId) :
    (s.setStopping n mode).poll id = if id ∈ (s.line n).pollList then (s.poll id).unmark else s.poll id := by
  rw [State.setStopping_eq]
  change (State.clearMarks n (s.dropForStop n mode)).poll id = _
  rw [State.clearMarks_poll, State.poll_congr (s.dropForStop_returns n mode).polls,
    State.line_congr (s.dropForStop_returns n mode).lines, State.modLine_line_self]
  rfl

theorem State.setStopping_ringUnit (s : State) (n : LineId) (mode : StopMode) :
    (s.setStopping n mode).ringUnit =
      { s.ringUnit with
        claim := if s.ringUnit.claim.any (fun q => q.1 == n) then none else s.ringUnit.claim
        fetchVoid := s.ringUnit.fetchVoid || s.burstOf (.ringFetch n.succ) } := by
  have hring : (s.dropForStop n mode).ringUnit = s.ringUnit := (s.dropForStop_returns n mode).ringUnit
  have hburst : (s.dropForStop n mode).burstOf (.ringFetch n.succ) = s.burstOf (.ringFetch n.succ) := by
    rw [State.burstOf, (s.dropForStop_returns n mode).hbi]
    rfl
  rw [State.setStopping_eq, hring, hburst, claim_filter_eq]

/-! ### Prefetched requests completed ABORTED (R39) -/

theorem State.abortLoop_of_none {s : State} {n : LineId} (h : (s.line n).engine ≠ .idle ∨ (s.line n).prefetched = []) (fuel : Nat) :
    s.abortLoop n fuel = s := by
  cases fuel with
  | zero => rfl
  | succ fuel =>
    simp only [State.abortLoop]
    split
    · next hidle hcons =>
      obtain hengine | hnil := h
      · exact absurd hidle hengine
      · rw [hnil] at hcons
        cases hcons
    · rfl

theorem State.abortPrefetched_of_none {s : State} {n : LineId} (h : (s.line n).engine ≠ .idle ∨ (s.line n).prefetched = []) :
    s.abortPrefetched n = s := State.abortLoop_of_none h _

theorem State.abortPrefetched_of_some {s : State} {n : LineId} {r : Request} {rest : List Request}
    (hidle : (s.line n).engine = .idle) (hrest : (s.line n).prefetched = r :: rest) :
    s.abortPrefetched n =
      ((s.modLine n fun l => { l with prefetched := rest }).claimOrWait n (s.checkCompletion n r .aborted none)).abortLoop n
        rest.length := by
  simp only [State.abortPrefetched, hrest, List.length_cons, State.abortLoop, hidle]

theorem State.claimOrWait_of_room {s : State} (hroom : s.writer.holding.length < 16) (hdevice : s.hbi.device ≠ .faulted) (n : LineId)
    (c : Completion) : s.claimOrWait n c = s.grantTo (lineClaimant n) c := by
  rw [State.claimOrWait, State.tryClaim_of_room hroom hdevice]

theorem State.claimOrWait_of_refused {s : State} (h : 16 ≤ s.writer.holding.length ∨ s.hbi.device = .faulted) (n : LineId)
    (c : Completion) :
    s.claimOrWait n c = s.modLine n fun l => { l.leave with engine := .completeWait, claim := some c } := by
  rw [State.claimOrWait, State.tryClaim_of_refused h]

theorem State.claimOrWait_eq (s : State) (n : LineId) (c : Completion) :
    s.claimOrWait n c =
      if s.hasRoom && s.hbi.device != .faulted then s.grantTo (lineClaimant n) c
      else s.modLine n fun l => { l.leave with engine := .completeWait, claim := some c } := by
  rw [State.claimOrWait, State.tryClaim]
  split <;> simp_all

/-- What the completions of prefetched requests leave alone at their line. -/
structure State.AbortKeeps (n : LineId) (s t : State) : Prop where
  admin : t.admin = s.admin
  ringUnit : t.ringUnit = s.ringUnit
  stopping : (t.line n).stopping = (s.line n).stopping
  followUp : (t.line n).followUp = (s.line n).followUp
  cycleTimer : (t.line n).cycleTimer = (s.line n).cycleTimer
  exchange : (t.line n).exchange = (s.line n).exchange

theorem State.AbortKeeps.trans {n : LineId} {s t u : State} (h : s.AbortKeeps n t) (k : t.AbortKeeps n u) : s.AbortKeeps n u :=
  ⟨k.admin.trans h.admin, k.ringUnit.trans h.ringUnit, k.stopping.trans h.stopping, k.followUp.trans h.followUp,
    k.cycleTimer.trans h.cycleTimer, k.exchange.trans h.exchange⟩

theorem State.abortOne_keeps (s : State) (n : LineId) (rest : List Request) (c : Completion) :
    s.AbortKeeps n ((s.modLine n fun l => { l with prefetched := rest }).claimOrWait n c) := by
  rw [State.claimOrWait_eq, State.modLine_modLine]
  split
  · have hline := State.modLine_line_self s n fun l => { l with prefetched := rest }
    exact ⟨rfl, rfl, (congrArg Line.stopping hline :), (congrArg Line.followUp hline :), (congrArg Line.cycleTimer hline :),
      (congrArg Line.exchange hline :)⟩
  · refine ⟨rfl, rfl, ?_, ?_, ?_, ?_⟩ <;> rw [State.modLine_line_self] <;> rfl

theorem State.abortLoop_keeps (n : LineId) (fuel : Nat) (s : State) : s.AbortKeeps n (s.abortLoop n fuel) := by
  induction fuel generalizing s with
  | zero => exact ⟨rfl, rfl, rfl, rfl, rfl, rfl⟩
  | succ fuel ih =>
    simp only [State.abortLoop]
    split
    · exact (s.abortOne_keeps n _ _).trans (ih _)
    · exact ⟨rfl, rfl, rfl, rfl, rfl, rfl⟩

/-! ### STOP LINE (R162) -/

theorem State.askFetch_line (s : State) (n : LineId) : s.askFetch.line n = s.line n := rfl
theorem State.askFetch_claim (s : State) : s.askFetch.ringUnit.claim = s.ringUnit.claim := rfl

theorem exec_stopLine_of_valid {s : State} {body : AdminBody} {n : LineId} (h : s.AdminTakes) (hn : argNat body 3 = n.val)
    (hmode : argNat body 4 ≤ 1) (hzero : ZeroFrom body 5) (tag : Half) :
    exec (.stopLine tag body) s =
      .next (if (s.line n).engine = .off then s.adminTaken.adminDone tag 0x03#8
        else (s.adminTaken.setAdmin (.deferred tag (.stopLine n))).stopTaken n
          (if argNat body 4 = 0 then .drain else .cut)).askFetch := by
  refine ((congrArg Host.Outcome.next (State.adminRow_of_takes h fun t => t.runStopLine tag body)).trans
    (congrArg (fun u => Host.Outcome.next (State.askFetch u))
      (State.withArguments_of_valid (reservedNonzero_of_zeroFrom hzero)
        (by simp [outside_of_mem, hn, hmode, Nat.le_of_lt_succ n.isLt]) _ _ _ _))).trans ?_
  rw [hn, lineOf_val]
  rfl

/-- What a DRAIN has done to its line by the end of the event (R39, R95, R147). -/
theorem State.drain_facts (s : State) (n : LineId) :
    let u := (s.setStopping n .drain).abortPrefetched n
    u.admin = s.admin ∧ (u.line n).stopping = some .drain ∧ (u.line n).followUp = [] ∧ (u.line n).cycleTimer = .stopped ∧
      (u.line n).exchange = (s.line n).exchange ∧ (∀ q, u.ringUnit.claim = some q → q.1 ≠ n) ∧
      ((s.line n).engine ≠ .idle → (u.line n).engine = (s.line n).engine) := by
  intro u
  have hkeep : (s.setStopping n .drain).AbortKeeps n u := State.abortLoop_keeps n _ _
  have hline := s.setStopping_line_self n .drain
  have hadmin : (s.setStopping n .drain).admin = s.admin := by
    rw [State.setStopping_eq]
    exact (s.dropForStop_returns n .drain).admin
  refine ⟨hkeep.admin.trans hadmin, hkeep.stopping.trans (congrArg Line.stopping hline),
    hkeep.followUp.trans (congrArg Line.followUp hline), hkeep.cycleTimer.trans (congrArg Line.cycleTimer hline),
    hkeep.exchange.trans (congrArg Line.exchange hline :), fun q hq => ?_, fun hidle => ?_⟩
  · rw [hkeep.ringUnit, State.setStopping_ringUnit, ← claim_filter_eq, Option.filter_eq_some_iff] at hq
    exact bne_iff_ne.mp hq.2
  · have hengine : ((s.setStopping n .drain).line n).engine = (s.line n).engine := (congrArg Line.engine hline :)
    have hstay : u = s.setStopping n .drain := State.abortPrefetched_of_none (.inl (by rwa [hengine]))
    rw [hstay, hengine]

theorem State.moverBusy_eq (s : State) (n : LineId) : s.moverBusy n = s.burstOf (.dataMover n) := by
  rw [State.moverBusy, State.burstOf]
  cases s.hbi.burst <;> rfl

/-- Nothing to cut: no exchange, or one that has ended (R41). -/
theorem State.cutLine_of_none {s : State} {n : LineId} (h : (s.line n).engine ∈ [Engine.off, .idle, .completeWait]) :
    s.cutLine n = s := by
  simp only [List.mem_cons, List.not_mem_nil, or_false] at h
  obtain h | h | h := h <;> rw [State.cutLine, h]

/-- Nothing on the line or the bus: the exchange ends at once (R41). -/
theorem State.cutLine_of_waiting {s : State} {n : LineId} (h : (s.line n).engine ∈ [Engine.quiet, .backoff, .lead, .await, .receive]) :
    s.cutLine n = s.endExchange n .aborted 0 := by
  simp only [List.mem_cons, List.not_mem_nil, or_false] at h
  obtain h | h | h | h | h := h <;> rw [State.cutLine, h]

/-- A character or TRAIL goes on to its end (R41). -/
theorem State.cutLine_of_sending {s : State} {n : LineId} (h : (s.line n).engine ∈ [Engine.send, .trail]) :
    s.cutLine n = s.markCut n := by
  simp only [List.mem_cons, List.not_mem_nil, or_false] at h
  obtain h | h := h <;> rw [State.cutLine, h]

theorem State.cutLine_of_slotWrite {s : State} {n : LineId} {write : SlotWrite} {status : Status} {data : List Byte} {done : Nat}
    {stamp : Word} (h : (s.line n).engine = .deliver) (hjob : (s.line n).job = some (.slotWrite write status data done stamp)) :
    s.cutLine n = s.markCut n := by
  simp only [State.cutLine, h, hjob]

/-- In a payload read or a response write a burst goes on to its end, and a request alone falls (R41). -/
theorem State.cutLine_of_moving {s : State} {n : LineId} (h : (s.line n).engine = .deliver)
    (hjob : ∀ w st d k c, (s.line n).job ≠ some (.slotWrite w st d k c)) :
    s.cutLine n = if s.burstOf (.dataMover n) then s.markCut n else s.endExchange n .aborted 0 := by
  simp only [State.cutLine, h, ← State.moverBusy_eq]

theorem stampOf_eq (cycle : Word) : stampOf cycle = cycle.setWidth 16 := BitVec.setWidth_eq_extractLsb' (by decide) |>.symm

/-- Settles O33: the command past its checks, the table of R41, the completions of R39 and what STOPPING changes. -/
theorem stopLineStopsOrWaits : Obligations.StopLineStopsOrWaits := by
  refine ⟨fun s n tag body htakes hn hmode hzero => ?command, fun s n => ?cut, fun s n => ⟨fun h => State.abortPrefetched_of_none h,
    fun r rest hidle hrest => ?abort, fun mode => ?set⟩⟩
  case command =>
    intro t
    have hrun := exec_stopLine_of_valid htakes hn hmode hzero tag
    refine ⟨fun hoff => hrun.trans (congrArg (fun u => Host.Outcome.next (State.askFetch u)) (if_pos hoff)), fun hon => ?_⟩
    replace hrun := hrun.trans (congrArg (fun u => Host.Outcome.next (State.askFetch u)) (if_neg hon))
    refine ⟨fun hdrain => ?_, fun hcut => ?_⟩
    · rw [if_pos hdrain] at hrun
      have hdrain := (t.setAdmin (.deferred tag (.stopLine n))).drain_facts n
      refine ⟨hrun, _, hrun, ?_⟩
      rw [State.stopTaken, State.askFetch_admin, State.askFetch_line, State.askFetch_claim]
      exact hdrain
    · rw [if_neg (by rw [hcut]; decide)] at hrun
      exact hrun
  case cut =>
    refine ⟨State.cutLine_of_none, State.cutLine_of_waiting, State.cutLine_of_sending,
      fun h => ⟨fun w st d k c hjob => State.cutLine_of_slotWrite h hjob, fun hjob => ⟨fun hburst => ?_, fun hburst => ?_⟩⟩⟩
    · exact (State.cutLine_of_moving h hjob).trans (if_pos hburst)
    · exact (State.cutLine_of_moving h hjob).trans (if_neg (by rw [hburst]; decide))
  case abort =>
    intro c
    have hc : s.checkCompletion n r .aborted none = c := by
      rw [State.checkCompletion, State.stampNow, stampOf_eq]
      rfl
    have habort := State.abortPrefetched_of_some hidle hrest
    rw [hc] at habort
    refine ⟨fun hroom hdevice => ?_, fun hfull => ?_⟩
    · rw [State.claimOrWait_of_room (s := s.modLine n fun l => { l with prefetched := rest }) hroom hdevice] at habort
      rw [habort, State.abortPrefetched, ← lineClaimant_succ]
      change _ = State.abortLoop n ((s.modLine n fun l => { l with prefetched := rest }).line n).prefetched.length _
      rw [State.modLine_line_self]
      rfl
    · rw [State.claimOrWait_of_refused (s := s.modLine n fun l => { l with prefetched := rest }) hfull, State.modLine_modLine] at habort
      rw [habort, State.abortLoop_of_none]
      · rfl
      · rw [State.modLine_line_self]
        exact .inl (show Engine.completeWait ≠ .idle by decide)
  case set =>
    intro t
    have hreturns := s.dropForStop_returns n mode
    have ht : t = _ := s.setStopping_eq n mode
    have hcapture : t.capture = (s.dropForStop n mode).capture := (congrArg State.capture ht :)
    have hhbi : t.hbi = (s.dropForStop n mode).hbi := (congrArg State.hbi ht :)
    refine ⟨s.setStopping_line_self n mode, fun m hm => State.setStopping_line_other hm s mode, fun id => ⟨fun hid => ?_, fun hid => ?_⟩,
      ?_, fun h => ?_, ?_, s.setStopping_ringUnit n mode, ?_, ?_, ?_, ?_⟩
    · rw [s.setStopping_poll, if_pos hid]
      rfl
    · rw [s.setStopping_poll, if_neg hid]
    · rw [hcapture, hreturns.capture]
      rfl
    · rw [hcapture, hhbi]
      exact State.dropForStop_of_none h mode
    · rw [hcapture, hreturns.capture]
      rfl
    · rw [hhbi]
      exact hreturns.hbi
    · exact (congrArg State.writer ht).trans hreturns.writer
    · exact (congrArg State.admin ht).trans hreturns.admin
    · exact (congrArg State.stations ht).trans hreturns.stations

end Sys2Proof.Machine
end

section
/-! PROOFS. What the work of one line leaves alone (the arbiter's choice, the cycle start), and the entry to HALTING with the halt condition (R95,
R118, R179, R180). -/

namespace Sys2Proof.Machine

/-! ### What the work of one line leaves alone -/

/-- The work of line n: the host interface keeps all but its latched causes, the Ring Unit is as it was, and another line differs in its
follow-up queue and poll list at most (R84, R85, R91). -/
structure State.WorksAt (n : LineId) (s t : State) : Prop where
  hbi : t.hbi = { s.hbi with attention := t.hbi.attention }
  ringUnit : t.ringUnit = s.ringUnit
  others : ∀ m, m ≠ n →
    t.line m = { s.line m with followUp := (t.line m).followUp, pollList := (t.line m).pollList }

namespace State.WorksAt

variable {n : LineId} {s t u : State}

theorem of_frame (hbi : t.hbi = s.hbi) (ringUnit : t.ringUnit = s.ringUnit) (lines : t.lines = s.lines) : State.WorksAt n s t :=
  ⟨by rw [hbi], ringUnit, fun m _ => by rw [State.line_congr lines]⟩

theorem refl (s : State) : State.WorksAt n s s := .of_frame rfl rfl rfl

theorem trans (h : State.WorksAt n s t) (k : State.WorksAt n t u) : State.WorksAt n s u := by
  refine ⟨?_, k.ringUnit.trans h.ringUnit, fun m hm => ?_⟩
  · have e := k.hbi
    rw [h.hbi] at e
    exact e
  · have e := k.others m hm
    rw [h.others m hm] at e
    exact e

theorem line (n : LineId) (s : State) (f : Line → Line) : State.WorksAt n s (s.modLine n f) :=
  ⟨rfl, rfl, fun m hm => by rw [State.modLine_line, if_neg (Ne.symm hm)]⟩

theorem station (s : State) (k : SlotId) (f : Station → Station) : State.WorksAt n s (s.modStation k f) := .of_frame rfl rfl rfl

theorem latch (s : State) (c : Cause) : State.WorksAt n s (s.latch c) := ⟨rfl, rfl, fun _ _ => rfl⟩

/-- Entries leave another line's queue or list. -/
theorem queues (s : State) (m : LineId) {f : Line → Line}
    (h : f (s.line m) = { s.line m with followUp := (f (s.line m)).followUp, pollList := (f (s.line m)).pollList }) :
    State.WorksAt n s (s.modLine m f) := by
  refine ⟨rfl, rfl, fun j _ => ?_⟩
  rw [State.modLine_line]
  split
  · next e =>
    subst e
    exact h
  · rfl

theorem returns {r : Nat} (h : State.Returns r s t) : State.WorksAt n s t :=
  ⟨h.hbi, h.ringUnit, fun m _ => by rw [State.line_congr h.lines]⟩

theorem foldl {α : Type} {f : State → α → State} (h : ∀ t a, State.WorksAt n t (f t a)) (l : List α) (s : State) :
    State.WorksAt n s (l.foldl f s) := by
  induction l generalizing s with
  | nil => exact .refl s
  | cons a l ih => exact (h s a).trans (ih _)

end State.WorksAt

section

variable {n : LineId}

theorem State.tryClaim_worksAt {s t : State} {k : Fin 7} {c : Completion} (h : s.tryClaim k c = some t) : State.WorksAt n s t := by
  obtain ⟨-, -, rfl⟩ := State.tryClaim_some h
  exact .of_frame rfl rfl rfl

theorem State.adminClaim_worksAt (s : State) (c : Completion) : State.WorksAt n s (s.adminClaim c) := by
  unfold State.adminClaim
  split
  · exact .of_frame rfl rfl rfl
  · split
    · next h => exact (State.tryClaim_worksAt h).trans (.of_frame rfl rfl rfl)
    · exact .of_frame rfl rfl rfl

theorem State.dropStation_worksAt (s : State) (k : SlotId) : State.WorksAt n s (s.dropStation k) :=
  (State.WorksAt.queues s _ rfl).trans (.returns (s.dropFollowUps_returns _ _))

theorem AdminWait.apply_worksAt (w : AdminWait) (s : State) : State.WorksAt n s (w.apply s) := by
  cases w with
  | stopLine => exact .refl s
  | holdStation k => exact (s.dropStation_worksAt k).trans (.of_frame rfl rfl rfl)
  | removeStation k => exact (s.dropStation_worksAt k).trans (.of_frame rfl rfl rfl)
  | deletePoll => exact .refl s
  | setCapture g => exact .of_frame rfl rfl rfl

theorem State.deferredApply_worksAt (s : State) : State.WorksAt n s s.deferredApply := by
  unfold State.deferredApply
  split
  · split
    · exact (AdminWait.apply_worksAt _ s).trans (State.adminClaim_worksAt _ _)
    · exact .refl s
  · exact .refl s

end

/-! ### The arbiter's work is its own line's -/

theorem State.prepareRequest_worksAt (s : State) (n : LineId) : State.WorksAt n s (s.prepareRequest n) := by
  unfold State.prepareRequest
  split
  · exact .refl s
  · split
    · exact .line n s _
    · exact .line n s _

theorem State.prepareFirst_worksAt (s : State) (n : LineId) : State.WorksAt n s (s.prepareFirst n) := by
  unfold State.prepareFirst
  split
  · exact .refl s
  · split
    · exact .line n s _
    · exact s.prepareRequest_worksAt n

theorem State.takeBound_worksAt (s : State) (n : LineId) (x : Exchange) (k : SlotId) : State.WorksAt n s (s.takeBound n x k) := by
  refine State.WorksAt.trans ?_ (State.prepareFirst_worksAt _ n)
  exact (State.WorksAt.line n s _).trans (.station _ k _)

theorem State.takeBroadcast_worksAt (s : State) (n : LineId) (r : Request) : State.WorksAt n s (s.takeBroadcast n r) :=
  (State.WorksAt.line n s _).trans (State.prepareFirst_worksAt _ n)

theorem State.claimOrWait_worksAt (s : State) (n : LineId) (c : Completion) : State.WorksAt n s (s.claimOrWait n c) := by
  unfold State.claimOrWait
  split
  · next h => exact State.tryClaim_worksAt h
  · exact .line n s _

theorem State.dispatchRequest_worksAt (s : State) (n : LineId) (r : Request) : State.WorksAt n s (s.dispatchRequest n r) := by
  have hpass (x : Exchange) (k : SlotId) : State.WorksAt n s ((s.modLine n fun l => l.shareAfterRequest r).takeBound n x k) :=
    (State.WorksAt.line n s _).trans (State.takeBound_worksAt _ n x k)
  unfold State.dispatchRequest
  dsimp only
  split
  · exact (State.WorksAt.line n s _).trans (State.takeBroadcast_worksAt _ n r)
  split
  · exact s.claimOrWait_worksAt n _
  split
  · exact s.claimOrWait_worksAt n _
  · split
    · exact hpass _ _
    · exact s.claimOrWait_worksAt n _
  all_goals exact hpass _ _

theorem State.dispatchPoll_worksAt (s : State) (n : LineId) (id : PollId) : State.WorksAt n s (s.dispatchPoll n id) := by
  have hpoll (f : Poll → Poll) : State.WorksAt n s (s.modPoll id f) := .of_frame rfl rfl rfl
  unfold State.dispatchPoll
  dsimp only
  split
  · exact ((hpoll _).trans (State.WorksAt.line n _ _)).trans (State.takeBound_worksAt _ n _ _)
  · split
    · exact (hpoll _).trans (State.claimOrWait_worksAt _ n _)
    · exact hpoll _

theorem State.dispatchFollowUp_worksAt (s : State) (n : LineId) (f : FollowUp) : State.WorksAt n s (s.dispatchFollowUp n f) := by
  unfold State.dispatchFollowUp
  extract_lets state passes
  split
  · exact s.takeBound_worksAt n _ _
  · exact (State.WorksAt.returns (s.returnFor_returns f)).trans (State.deferredApply_worksAt _)

theorem State.dispatch_worksAt (s : State) (n : LineId) (w : Work) : State.WorksAt n s (s.dispatch n w) := by
  cases w with
  | request r => exact (State.WorksAt.line n s _).trans (State.dispatchRequest_worksAt _ n r)
  | poll id => exact s.dispatchPoll_worksAt n id
  | followUp f => exact (State.WorksAt.line n s _).trans (State.dispatchFollowUp_worksAt _ n f)

theorem State.chooseLoop_worksAt (n : LineId) (fuel : Nat) (s : State) : State.WorksAt n s (s.chooseLoop n fuel) := by
  induction fuel generalizing s with
  | zero => exact .refl s
  | succ fuel ih =>
    unfold State.chooseLoop
    split
    · split
      · exact (s.dispatch_worksAt n _).trans (ih _)
      · exact .refl s
    · exact .refl s

theorem State.arbiterChoice_worksAt (s : State) (n : LineId) : State.WorksAt n s (s.arbiterChoice n) := s.chooseLoop_worksAt n _

/-! ### The cycle start's work is its own line's -/

section

variable {n : LineId}

theorem State.placeReport_worksAt (s : State) (c : Completion) : State.WorksAt n s (s.placeReport c) := by
  unfold State.placeReport
  split <;> exact .of_frame rfl rfl rfl

theorem State.overrun_worksAt (s : State) (m : LineId) (id : PollId) (state : PollState) :
    State.WorksAt n s (s.overrun m id state) := by
  have hpoll (f : Poll → Poll) : State.WorksAt n s (s.modPoll id f) := .of_frame rfl rfl rfl
  unfold State.overrun
  dsimp only
  split
  · exact (hpoll _).trans (State.placeReport_worksAt _ _)
  · exact hpoll _

theorem State.clearOverrun_worksAt (m : LineId) (s : State) (id : PollId) : State.WorksAt n s (State.clearOverrun m s id) := by
  unfold State.clearOverrun
  split
  · exact s.overrun_worksAt m id _
  · exact .refl s

theorem State.markEntry_worksAt (m : LineId) (s : State) (id : PollId) : State.WorksAt n s (State.markEntry m s id) := by
  have hpoll (f : Poll → Poll) : State.WorksAt n s (s.modPoll id f) := .of_frame rfl rfl rfl
  unfold State.markEntry
  dsimp only
  split
  · split
    · exact hpoll _
    · split
      · exact s.overrun_worksAt m id _
      · exact hpoll _
    all_goals exact .refl s
  · exact .refl s

end

theorem State.lineEvent_worksAt (s : State) (n : LineId) (c : LineCause) : State.WorksAt n s (s.lineEvent n c) :=
  (State.WorksAt.line n s _).trans (.latch _ _)

theorem State.settleCycle_worksAt (s : State) (n : LineId) : State.WorksAt n s (s.settleCycle n) := by
  have hlist := (State.WorksAt.foldl (n := n) (State.clearOverrun_worksAt n) (s.line n).pollList s).trans
    (State.WorksAt.foldl (State.markEntry_worksAt n) (s.line n).pollList _)
  unfold State.settleCycle
  dsimp only
  split
  · exact hlist.trans ((State.WorksAt.line n _ _).trans (State.lineEvent_worksAt _ n _))
  · exact hlist

theorem State.offerProbe_worksAt (s : State) (n : LineId) (k : SlotId) : State.WorksAt n s (s.offerProbe n k) := by
  have hserved (t : State) : State.WorksAt n t (t.modStation k fun st => { st with reprobe := 0 }) := .of_frame rfl rfl rfl
  unfold State.offerProbe
  dsimp only
  split
  · exact hserved s
  · split
    · exact (State.WorksAt.line n s _).trans (hserved _)
    · exact .refl s

theorem State.reprobeSlot_worksAt (n : LineId) (s : State) (k : SlotId) : State.WorksAt n s (State.reprobeSlot n s k) := by
  have hcount : State.WorksAt n s (s.modStation k Station.advanceReprobe) := .of_frame rfl rfl rfl
  unfold State.reprobeSlot
  dsimp only
  split
  · split
    · exact hcount.trans (State.offerProbe_worksAt _ n k)
    · exact hcount
  · exact .refl s

theorem State.cycleWork_worksAt (s : State) (n : LineId) : State.WorksAt n s (s.cycleWork n) :=
  (s.settleCycle_worksAt n).trans (.foldl (State.reprobeSlot_worksAt n) _ _)

theorem State.runCycle_worksAt (s : State) (n : LineId) : State.WorksAt n s (s.runCycle n) := by
  unfold State.runCycle
  dsimp only
  split
  · exact (s.cycleWork_worksAt n).trans (State.arbiterChoice_worksAt _ n)
  · exact s.cycleWork_worksAt n

theorem State.nextCycle_worksAt (s : State) (n : LineId) : State.WorksAt n s (s.nextCycle n) :=
  (State.WorksAt.line n s _).trans (State.runCycle_worksAt _ n)

/-! ### The lines at the entry to HALTING (R95, R118) -/

/-- What the entry to HALTING leaves of a line. -/
def Line.halted (l : Line) : Line :=
  { l with
    cycleTimer := match l.cycleTimer with
      | .running _ => .frozen
      | other => other
    followUp := l.followUp.filter fun f => f.kind == .probe }

/-- The EVENT_FETCH entries of a line. -/
def Line.fetchEntries (l : Line) : Nat := (l.followUp.filter fun f => f.kind == .eventFetch).length

theorem Line.halted_eq (l : Line) :
    l.halted = { l with cycleTimer := l.cycleTimer.freeze, followUp := l.followUp.filter fun f => !(f.kind == .eventFetch) } := by
  have htimer : (match l.cycleTimer with | .running _ => CycleTimer.frozen | other => other) = l.cycleTimer.freeze := by
    cases l.cycleTimer <;> rfl
  have hkeep : (fun f : FollowUp => f.kind == .probe) = fun f => !(f.kind == .eventFetch) := by
    funext f
    cases f.kind <;> rfl
  simp only [Line.halted, hkeep]
  rw [← htimer]

/-- The lines ns have entered HALTING: their entries returned and their marks cleared, every other line as it was. -/
structure State.Halts (ns : List LineId) (s t : State) : Prop where
  returns : State.Returns (144 * (ns.map fun n => (s.line n).fetchEntries).sum) { s with lines := t.lines, polls := t.polls } t
  line : ∀ m, t.line m = if m ∈ ns then (s.line m).halted else s.line m
  poll : ∀ id, t.poll id = if ∃ n ∈ ns, id ∈ (s.line n).pollList then (s.poll id).unmark else s.poll id

/-- Returns from a state that differs from s in its lines and poll entries alone. -/
theorem State.Returns.over {r : Nat} {s a t : State} (h : State.Returns r a t)
    (ha : a = { s with lines := a.lines, polls := a.polls }) : State.Returns r { s with lines := t.lines, polls := t.polls } t := by
  rw [h.lines, h.polls, ← ha]
  exact h

/-- The cycle timer of a line freezes (R95). -/
def Line.freezeTimer (l : Line) : Line := { l with cycleTimer := l.cycleTimer.freeze }

/-- A line's timer frozen and its marks cleared: nothing else is touched. -/
theorem State.clearMarks_freezeTimer (n : LineId) (s : State) :
    State.clearMarks n (s.modLine n Line.freezeTimer) =
      { s with
        lines := (s.modLine n Line.freezeTimer).lines
        polls := (State.clearMarks n (s.modLine n Line.freezeTimer)).polls } :=
  State.clearMarks_eq n (s.modLine n Line.freezeTimer)

theorem State.haltLine_halts (n : LineId) (s : State) : State.Halts [n] s (State.haltLine n s) := by
  have hmarks := State.clearMarks_freezeTimer n s
  have hlines : (State.clearMarks n (s.modLine n Line.freezeTimer)).lines = (s.modLine n Line.freezeTimer).lines :=
    (congrArg State.lines hmarks :)
  have hpoll := State.clearMarks_poll n (s.modLine n Line.freezeTimer)
  rw [State.modLine_line_self] at hpoll
  change State.Halts [n] s ((State.clearMarks n (s.modLine n Line.freezeTimer)).dropFollowUps n fun f => f.kind == .eventFetch)
  generalize State.clearMarks n (s.modLine n Line.freezeTimer) = b at hmarks hlines hpoll ⊢
  have hbase : ∀ m, b.line m = if n = m then (s.line m).freezeTimer else s.line m := fun m =>
    (State.line_congr hlines m).trans (State.modLine_line ..)
  have hreturns := b.dropFollowUps_returns n fun f => f.kind == .eventFetch
  refine ⟨?returns, fun m => ?line, fun id => ?poll⟩
  case returns =>
    rw [hbase, if_pos rfl, List.filter_filter] at hreturns
    simp only [Bool.and_self] at hreturns
    refine State.Returns.over (r := 144 * ([n].map fun n => (s.line n).fetchEntries).sum) hreturns ?_
    rw [hmarks]
    rfl
  case line =>
    rw [State.dropFollowUps_line, hbase, Line.halted_eq]
    by_cases h : n = m
    · rw [if_pos h, if_pos h, if_pos (List.mem_singleton.mpr h.symm)]
      rfl
    · rw [if_neg h, if_neg h, if_neg (fun k => h (List.mem_singleton.mp k).symm)]
  case poll =>
    rw [State.poll_congr hreturns.polls]
    have hthis : b.poll id = if id ∈ (s.line n).pollList then (s.poll id).unmark else s.poll id := hpoll id
    have hnames : (∃ m ∈ [n], id ∈ (s.line m).pollList) ↔ id ∈ (s.line n).pollList := by simp
    simp only [hnames]
    exact hthis

theorem State.Halts.trans {n : LineId} {ns : List LineId} {s t u : State} (hn : n ∉ ns) (h : State.Halts [n] s t)
    (k : State.Halts ns t u) : State.Halts (n :: ns) s u := by
  have hother : ∀ m ∈ ns, t.line m = s.line m := fun m hm => by
    have hmn : m ≠ n := fun e => hn (e ▸ hm)
    rw [h.line, if_neg (mt List.mem_singleton.mp hmn)]
  have hlist : ∀ m, (t.line m).pollList = (s.line m).pollList := fun m => by
    rw [h.line]
    split <;> rfl
  refine ⟨?returns, fun m => ?line, fun id => ?poll⟩
  case returns =>
    have hsum : (ns.map fun n => (t.line n).fetchEntries) = ns.map fun n => (s.line n).fetchEntries :=
      List.map_congr_left fun m hm => by rw [hother m hm]
    have hk := k.returns
    rw [hsum] at hk
    rw [List.map_cons, List.sum_cons, Nat.mul_add]
    have hh := h.returns
    rw [List.map_singleton, List.sum_singleton] at hh
    refine State.Returns.trans (t := { t with lines := u.lines, polls := u.polls }) ⟨?_, hh.others, hh.latched⟩ hk
    have hs := congrArg (fun v : State => { v with lines := u.lines, polls := u.polls }) hh.state
    exact hs
  case line =>
    rw [k.line, h.line]
    by_cases hm : m ∈ ns
    · have hmn : m ≠ n := fun e => hn (e ▸ hm)
      simp [hm, hmn]
    · simp [hm]
  case poll =>
    simp only [k.poll, h.poll, hlist]
    have hnames : (∃ m ∈ n :: ns, id ∈ (s.line m).pollList) ↔
        id ∈ (s.line n).pollList ∨ ∃ m ∈ ns, id ∈ (s.line m).pollList := by simp
    have hfirst : (∃ m ∈ [n], id ∈ (s.line m).pollList) ↔ id ∈ (s.line n).pollList := by simp
    simp only [hnames, hfirst]
    by_cases hhere : id ∈ (s.line n).pollList <;> by_cases hrest : ∃ m ∈ ns, id ∈ (s.line m).pollList <;>
      simp [hhere, hrest, Poll.unmark_unmark]

theorem State.foldl_haltLine_halts (ns : List LineId) (hns : ns.Nodup) (s : State) :
    State.Halts ns s (ns.foldl (fun t n => State.haltLine n t) s) := by
  induction ns generalizing s with
  | nil => exact ⟨.refl s, fun m => by simp, fun id => by simp⟩
  | cons n ns ih =>
    have ⟨hn, hrest⟩ := List.nodup_cons.mp hns
    exact (State.haltLine_halts n s).trans hn (ih hrest _)

theorem State.forLines_haltLine_halts (s : State) : State.Halts allLines s (s.forLines State.haltLine) :=
  State.foldl_haltLine_halts allLines (by decide) s

theorem mem_allLines (n : LineId) : n ∈ allLines := by
  revert n
  decide

/-! ### The entry to HALTING (R179, R180) -/

/-- The state of the entry to HALTING before deferred commands and the halt condition are tried. -/
def State.frozen (s : State) : State :=
  (((s.modHbi fun h => { h with device := .halting }).voidFetch fun _ => true).modRingUnit fun u =>
    { u with claim := none, requested := none }).forLines State.haltLine

theorem State.enterHalting_eq (s : State) : s.enterHalting = s.frozen.deferredApply.haltTest := rfl

/-- What the entry to HALTING leaves, ENABLE and IRQ_ENABLE written. -/
structure State.Freezes (s u : State) : Prop where
  hbi : u.hbi = { s.hbi with device := .halting, attention := u.hbi.attention }
  others : ∀ i : Fin 7, i ≠ 2 → u.hbi.attention[i] = s.hbi.attention[i]
  latched : s.hbi.attention[2] = true → u.hbi.attention[2] = true
  ringUnit : u.ringUnit = { s.ringUnit with claim := none, requested := none, fetchVoid := u.ringUnit.fetchVoid }
  voided : ∀ r, s.burstOf (.ringFetch r) = true → u.ringUnit.fetchVoid = true
  writer : u.writer = s.writer
  admin : u.admin = s.admin
  stations : u.stations = s.stations
  line : ∀ n, u.line n = (s.line n).halted
  reserved : u.capture.reserved = s.capture.reserved - 144 * (allLines.map fun n => (s.line n).fetchEntries).sum
  poll : ∀ id, u.poll id = if ∃ n, id ∈ (s.line n).pollList then (s.poll id).unmark else s.poll id

theorem State.frozen_freezes (s : State) : State.Freezes s s.frozen := by
  have hvoid := (s.modHbi fun h => { h with device := .halting }).voidFetch_eq fun _ => true
  have h := State.forLines_haltLine_halts (((s.modHbi fun h => { h with device := .halting }).voidFetch fun _ => true).modRingUnit
    fun u => { u with claim := none, requested := none })
  rw [hvoid] at h
  rw [State.frozen, hvoid]
  generalize State.forLines _ _ = u at h ⊢
  have hring := h.returns.ringUnit
  refine ⟨h.returns.hbi, h.returns.others, h.returns.latched, ?_, fun r hr => ?_, h.returns.writer, h.returns.admin,
    h.returns.stations, fun n => (h.line n).trans (if_pos (mem_allLines n)), congrArg Capture.reserved h.returns.capture,
    fun id => ?_⟩
  · rw [hring]
    rfl
  · have hfetch : (s.modHbi fun h => { h with device := .halting }).fetches (fun _ => true) = true := State.fetches_of_burst hr
    rw [hring]
    simp [hfetch]
  · rw [h.poll id]
    simp only [mem_allLines, true_and]
    rfl

theorem Line.atRest_iff (l : Line) : l.atRest = true ↔ l.engine = .off ∨ (l.engine = .idle ∧ l.stopping = none) := by
  rw [Line.atRest, Bool.or_eq_true, Bool.and_eq_true, beq_iff_eq, beq_iff_eq, Option.isNone_iff_eq_none]

theorem State.haltCondition_iff (s : State) :
    s.haltCondition = true ↔
      s.admin = .idle ∧ ∀ n : LineId, (s.line n).engine = .off ∨ ((s.line n).engine = .idle ∧ (s.line n).stopping = none) := by
  simp only [State.haltCondition, Bool.and_eq_true, beq_iff_eq, List.all_eq_true, mem_allLines, true_imp_iff, Line.atRest_iff]

theorem State.haltTest_of_not {s : State} (h : s.hbi.device ≠ .halting ∨ s.haltCondition = false) : s.haltTest = s :=
  if_neg fun ⟨hdevice, hmet⟩ => h.elim (absurd hdevice) fun hnot => Bool.false_ne_true (hnot.symm.trans hmet)

theorem State.haltTest_of_met {s : State} (hdevice : s.hbi.device = .halting) (hmet : s.haltCondition = true) :
    s.haltTest = if s.hbi.enable then s.returnToRunning else (s.modHbi fun h => { h with device := .halted }).latch .halted :=
  if_pos ⟨hdevice, hmet⟩

/-- ENABLE written zero in RUNNING (R175, R179). -/
theorem exec_enableClear_running {s : State} (hreset : s.hbi.resetting = none) (hdevice : s.hbi.device = .running)
    (henable : s.hbi.enable = true) (irq : Bool) :
    exec (.enableClear irq) s =
      .next (s.modHbi fun h => { h with irqEnable := irq, enable := false }).frozen.deferredApply.haltTest := by
  rw [exec_enableClear hreset, State.writeControl_clear henable]
  exact congrArg Host.Outcome.next (if_pos hdevice)

/-- A line's engine is as the entry to HALTING found it (R118). -/
theorem State.Freezes.atRest {s u : State} (h : State.Freezes s u) (n : LineId) :
    ((u.line n).engine = .off ∨ ((u.line n).engine = .idle ∧ (u.line n).stopping = none)) ↔
      ((s.line n).engine = .off ∨ ((s.line n).engine = .idle ∧ (s.line n).stopping = none)) := by
  rw [h.line]
  rfl

theorem State.latch_halted (s : State) :
    s.latch .halted = s.modHbi fun h => { h with attention := s.hbi.attention ||| 0x20#7 } := rfl

/-- Settles O43: the freezing line by line, then the deferred command and the test. -/
theorem enteringHaltingFreezesTheLines : Obligations.EnteringHaltingFreezesTheLines := by
  refine ⟨fun s irq m hreset hdevice henable hoff hidle hadmin => ?waits, fun s irq hreset hdevice henable => ?entry⟩
  case waits =>
    have h := (s.modHbi fun h => { h with irqEnable := irq, enable := false }).frozen_freezes
    rw [exec_enableClear_running hreset hdevice henable]
    generalize (s.modHbi fun h => { h with irqEnable := irq, enable := false }).frozen = u at h ⊢
    have hwaits : u.deferredApply = u :=
      State.deferredApply_of_notReady fun tag w hw => absurd (h.admin.symm.trans hw) (hadmin tag w)
    have hbusy : u.haltCondition = false := by
      rw [Bool.eq_false_iff, ne_eq, State.haltCondition_iff]
      exact fun ⟨_, hrest⟩ => ((h.atRest m).mp (hrest m)).elim hoff fun k => hidle k.1
    rw [hwaits, State.haltTest_of_not (.inr hbusy)]
    refine ⟨u, rfl, h.hbi, h.ringUnit, h.voided, h.writer, h.admin, h.stations, h.line, h.reserved, fun id => ⟨fun hin => ?_, fun hout => ?_⟩⟩
    · exact (h.poll id).trans (if_pos hin)
    · exact (h.poll id).trans (if_neg fun ⟨n, hn⟩ => hout n hn)
  case entry =>
    have h := (s.modHbi fun h => { h with irqEnable := irq, enable := false }).frozen_freezes
    rw [exec_enableClear_running hreset hdevice henable]
    generalize (s.modHbi fun h => { h with irqEnable := irq, enable := false }).frozen = u at h ⊢
    refine ⟨u, rfl, h.hbi, h.others, h.latched, h.ringUnit, h.voided, h.writer, h.admin, h.stations, h.line, fun hidle hrest => ?_⟩
    have hadmin : u.admin = .idle := h.admin.trans hidle
    have happly : u.deferredApply = u :=
      State.deferredApply_of_notReady fun tag w hw => absurd (hadmin.symm.trans hw) (by nofun)
    have hmet : u.haltCondition = true := u.haltCondition_iff.mpr ⟨hadmin, fun n => (h.atRest n).mpr (hrest n)⟩
    have hhalting : u.hbi.device = .halting := by rw [h.hbi]
    have hclear : u.hbi.enable = false := by rw [h.hbi]; rfl
    refine ⟨_, rfl, ?_⟩
    rw [happly, State.haltTest_of_met hhalting hmet, hclear]
    rfl

/-! ### The return to RUNNING (R95, R118, R180) -/

/-- What a cycle start sets of a line's clock: its settings stay, its number rises and its timer runs from the full period (R94). -/
structure Line.Ticks (l m : Line) : Prop where
  config : m.config = l.config
  cycle : m.counters.cycle = l.counters.cycle + 1
  timer : m.cycleTimer = .running l.config.cyclePeriod

/-- A line's clock is as it was. -/
structure Line.SameClock (l m : Line) : Prop where
  config : m.config = l.config
  cycle : m.counters.cycle = l.counters.cycle
  timer : m.cycleTimer = l.cycleTimer

theorem Line.SameClock.trans {l m k : Line} (h : l.SameClock m) (g : m.SameClock k) : l.SameClock k :=
  ⟨g.config.trans h.config, g.cycle.trans h.cycle, g.timer.trans h.timer⟩

theorem Line.Ticks.trans_same {l m k : Line} (h : l.Ticks m) (g : m.SameClock k) : l.Ticks k :=
  ⟨g.config.trans h.config, g.cycle.trans h.cycle, g.timer.trans h.timer⟩

theorem Line.SameClock.trans_ticks {l m k : Line} (h : l.SameClock m) (g : m.Ticks k) : l.Ticks k :=
  ⟨g.config.trans h.config, by rw [g.cycle, h.cycle], by rw [g.timer, h.config]⟩

theorem Moves.sameClock {s t : State} (h : Moves .still s t) (n : LineId) : (s.line n).SameClock (t.line n) :=
  have ⟨hconfig, hcycle, htimer⟩ := h.line_still n
  ⟨hconfig, hcycle, htimer⟩

theorem State.WorksAt.sameClock {n m : LineId} {s t : State} (h : State.WorksAt m s t) (hn : n ≠ m) :
    (s.line n).SameClock (t.line n) := by
  rw [h.others n hn]
  exact ⟨rfl, rfl, rfl⟩

theorem State.beginCycle_ticks (s : State) (n : LineId) : (s.line n).Ticks ((s.beginCycle n).line n) := by
  rw [State.beginCycle, State.modLine_line_self]
  exact ⟨rfl, rfl, rfl⟩

theorem State.nextCycle_ticks (s : State) (n : LineId) : (s.line n).Ticks ((s.nextCycle n).line n) :=
  (s.beginCycle_ticks n).trans_same ((State.runCycle_moves _ n).sameClock n)

theorem State.resume_worksAt (s : State) (e : LineId × Resumption) : State.WorksAt e.1 s (s.resume e) := by
  unfold State.resume
  split
  · exact s.nextCycle_worksAt _
  · exact s.arbiterChoice_worksAt _

/-- An event of the return that is not line n's cycle start leaves its clock. -/
theorem State.resume_sameClock (s : State) {e : LineId × Resumption} {n : LineId} (h : e ≠ (n, .cycleStart)) :
    (s.line n).SameClock ((s.resume e).line n) := by
  obtain ⟨m, k⟩ := e
  cases k with
  | choice => exact (s.arbiterChoice_moves m).sameClock n
  | cycleStart => exact (s.resume_worksAt (m, .cycleStart)).sameClock fun hnm => h (by rw [hnm])

theorem State.foldl_resume_sameClock (es : List (LineId × Resumption)) (s : State) {n : LineId} (h : (n, .cycleStart) ∉ es) :
    (s.line n).SameClock ((es.foldl State.resume s).line n) := by
  induction es generalizing s with
  | nil => exact ⟨rfl, rfl, rfl⟩
  | cons e es ih =>
    have he : e ≠ (n, .cycleStart) := fun k => h (k ▸ List.mem_cons_self)
    exact (s.resume_sameClock he).trans (ih _ fun k => h (List.mem_cons_of_mem e k))

/-- Among the events of a return line n's one cycle start is what its clock shows. -/
theorem State.foldl_resume_ticks (es : List (LineId × Resumption)) (hes : es.Nodup) (s : State) {n : LineId}
    (h : (n, .cycleStart) ∈ es) : (s.line n).Ticks ((es.foldl State.resume s).line n) := by
  induction es generalizing s with
  | nil => exact absurd h List.not_mem_nil
  | cons e es ih =>
    have ⟨hhead, hrest⟩ := List.nodup_cons.mp hes
    by_cases he : e = (n, .cycleStart)
    · subst he
      have hcycle : s.resume (n, .cycleStart) = s.nextCycle n := rfl
      rw [List.foldl_cons, hcycle]
      exact (s.nextCycle_ticks n).trans_same (State.foldl_resume_sameClock es (s.nextCycle n) hhead)
    · have hin : (n, Resumption.cycleStart) ∈ es := (List.mem_cons.mp h).resolve_left (Ne.symm he)
      rw [List.foldl_cons]
      exact (s.resume_sameClock he).trans_ticks (ih hrest (s.resume e) hin)

theorem State.foldl_resume_hbi (es : List (LineId × Resumption)) (s : State) :
    (es.foldl State.resume s).hbi = { s.hbi with attention := (es.foldl State.resume s).hbi.attention } := by
  induction es generalizing s with
  | nil => rfl
  | cons e es ih =>
    have h := ih (s.resume e)
    rw [(s.resume_worksAt e).hbi] at h
    exact h

/-- A line with no event in the return keeps all but its follow-up queue and its list. -/
theorem State.foldl_resume_other (es : List (LineId × Resumption)) (s : State) {n : LineId} (h : ∀ e ∈ es, e.1 ≠ n) :
    (es.foldl State.resume s).line n =
      { s.line n with
        followUp := ((es.foldl State.resume s).line n).followUp
        pollList := ((es.foldl State.resume s).line n).pollList } := by
  induction es generalizing s with
  | nil => rfl
  | cons e es ih =>
    have hrest := ih (s.resume e) fun a ha => h a (List.mem_cons_of_mem e ha)
    rw [(s.resume_worksAt e).others n (h e List.mem_cons_self).symm] at hrest
    exact hrest

theorem mem_resumptions (ns : List LineId) (e : LineId × Resumption) : e ∈ resumptions ns ↔ e.1 ∈ ns := by
  obtain ⟨n, k⟩ := e
  rw [resumptions, List.mem_flatMap]
  constructor
  · rintro ⟨m, hm, hk⟩
    rcases List.mem_cons.mp hk with hk | hk
    · exact (congrArg Prod.fst hk : n = m) ▸ hm
    · exact (congrArg Prod.fst (List.mem_singleton.mp hk) : n = m) ▸ hm
  · intro hn
    refine ⟨n, hn, ?_⟩
    cases k with
    | cycleStart => exact List.mem_cons_self
    | choice => exact List.mem_cons_of_mem _ List.mem_cons_self

theorem nodup_resumptions {ns : List LineId} (h : ns.Nodup) : (resumptions ns).Nodup := by
  induction ns with
  | nil => exact List.nodup_nil
  | cons n ns ih =>
    have ⟨hn, hrest⟩ := List.nodup_cons.mp h
    have hout (k : Resumption) : (n, k) ∉ resumptions ns := fun hk => hn ((mem_resumptions ns _).mp hk)
    change ((n, Resumption.cycleStart) :: (n, Resumption.choice) :: resumptions ns).Nodup
    simp [hout, ih hrest]

theorem Line.running_iff (l : Line) : l.running = true ↔ l.engine ≠ .off ∧ l.stopping = none := by
  simp [Line.running]

/-- The return to RUNNING takes its events in some order (R118, log entry 13). -/
theorem State.returnToRunning_order (s : State) :
    ∃ (order : List (LineId × Resumption)) (free : Nat), order.Nodup ∧
      (∀ e : LineId × Resumption, e ∈ order ↔ (s.line e.1).running = true) ∧
      s.returnToRunning =
        (order.foldl State.resume { (s.modHbi fun h => { h with device := .running }) with free := free }).askFetch := by
  have ⟨hperm, free, hfree⟩ := orderEvents_spec
    (resumptions (s.modHbi fun h => { h with device := .running }).runningLines) (s.modHbi fun h => { h with device := .running })
  have hlines : (s.modHbi fun h => { h with device := .running }).runningLines.Nodup := List.Nodup.filter _ (by decide)
  refine ⟨_, free, hperm.nodup_iff.mpr (nodup_resumptions hlines), fun e => ?_, ?_⟩
  · rw [hperm.mem_iff, mem_resumptions, State.runningLines, List.mem_filter]
    exact and_iff_right (mem_allLines e.1)
  · rw [State.returnToRunning, hfree]

/-- Settles O42: the test by its condition, and the return event by event. -/
theorem haltConditionIsTested : Obligations.HaltConditionIsTested := by
  refine ⟨fun s => ?test, fun s n => ⟨rfl, rfl⟩, fun s => ?return_⟩
  case test =>
    intro holds
    have hmet : holds ↔ s.haltCondition = true := s.haltCondition_iff.symm
    refine ⟨rfl, fun hnot => ?_, fun hdevice hholds hclear => ?_, fun hdevice hholds hset => ?_⟩
    · refine congrArg Host.Outcome.next (State.haltTest_of_not (hnot.imp_right fun h => ?_))
      exact Bool.eq_false_iff.mpr fun k => h (hmet.mpr k)
    · refine ⟨(s.modHbi fun h => { h with device := .halted }).latch .halted,
        congrArg Host.Outcome.next ?_, rfl, State.latch_attention_getElem _ _, rfl⟩
      rw [State.haltTest_of_met hdevice (hmet.mp hholds), hclear]
      rfl
    · refine congrArg Host.Outcome.next ?_
      rw [State.haltTest_of_met hdevice (hmet.mp hholds), hset]
      rfl
  case return_ =>
    have ⟨order, free, hnodup, hmem, heq⟩ := s.returnToRunning_order
    intro t runs
    have hruns (n : LineId) : runs n = (s.line n).running := by
      rw [Bool.eq_iff_iff, Line.running_iff]
      simp [runs]
    refine ⟨⟨order, free, hnodup, fun e => by rw [hmem, hruns], heq⟩, ?_, fun n => ⟨fun hon hgoing => ?_, fun hnot => ?_⟩⟩
    · simp only [t, heq]
      exact State.foldl_resume_hbi order _
    · have hin : (n, Resumption.cycleStart) ∈ order := (hmem _).mpr ((Line.running_iff _).mpr ⟨hon, hgoing⟩)
      have hticks := State.foldl_resume_ticks order hnodup
        { (s.modHbi fun h => { h with device := .running }) with free := free } hin
      simp only [t, heq]
      exact ⟨hticks.cycle, hticks.timer⟩
    · have hout : ∀ e ∈ order, e.1 ≠ n := fun e he hn => by
        have hrun := (Line.running_iff _).mp ((hmem e).mp he)
        rw [hn] at hrun
        exact hnot.elim hrun.1 fun h => h hrun.2
      have hline := State.foldl_resume_other order
        { (s.modHbi fun h => { h with device := .running }) with free := free } hout
      simp only [t, heq]
      have hask (u : State) : u.askFetch.line n = u.line n := rfl
      rw [hask, hline]
      exact ⟨rfl, rfl, rfl, rfl⟩

end Sys2Proof.Machine
end

section
/-! PROOFS. The holding queue: claims granted in round-robin order (R151) and a written completion (R152, R184). -/

namespace Sys2Proof.Machine

/-! ### The first in round-robin order -/

/-- The search from a pointer on finds the first place with a result. -/
theorem findSome?_map_add_of_first {m : Nat} {α : Type} {f : Fin m → Option α} {p j : Fin m} {a : α} (hj : f (p + j) = some a)
    (hbefore : ∀ i, i < j → f (p + i) = none) : ((List.finRange m).map (p + ·)).findSome? f = some a := by
  have hfind : (List.finRange m).find? (fun i => (f (p + i)).isSome) = some j :=
    find?_finRange_of_first (by rw [hj]; rfl) fun i hi => by rw [hbefore i hi]; rfl
  rw [List.findSome?_map, List.findSome?_eq_some_iff]
  obtain ⟨-, before, after, hsplit, hnone⟩ := List.find?_eq_some_iff_append.mp hfind
  exact ⟨before, j, after, hsplit, hj, fun i hi => by simpa using hnone i hi⟩

theorem findSome?_map_add_of_none {m : Nat} {α : Type} {f : Fin m → Option α} {p : Fin m} (h : ∀ k, f k = none) :
    ((List.finRange m).map (p + ·)).findSome? f = none :=
  List.findSome?_eq_none_iff.mpr fun k _ => h k

theorem find?_map_add_of_first {m : Nat} {f : Fin m → Bool} {p j : Fin m} (hj : f (p + j) = true)
    (hbefore : ∀ i, i < j → f (p + i) = false) : ((List.finRange m).map (p + ·)).find? f = some (p + j) := by
  have hfind : (List.finRange m).find? (fun i => f (p + i)) = some j := find?_finRange_of_first hj hbefore
  rw [List.find?_map]
  exact congrArg (Option.map (p + ·)) hfind

theorem claimOrder_eq (p : Fin 7) : claimOrder p = (List.finRange 7).map (p + ·) := by
  revert p
  decide

/-! ### The grant of a claim (R151) -/

/-- A claim of claimant k for completion c has been granted, and g is what its claimant makes of it (R35, R81, R146, R151). -/
structure State.Grants (s : State) (k : Fin 7) (c : Completion) (g : State) : Prop where
  line : ∀ n : LineId, k.val = n.val →
    g = (s.modWriter fun w => { w with holding := w.holding ++ [c], pointer := k + 1 }).enterIdle n
  admin : k = 4 → g = (s.modWriter fun w => { w with holding := w.holding ++ [c], pointer := k + 1 }).setAdmin .idle
  record : k = 5 → ∀ n p, s.ringUnit.claim = some (n, p) →
    g = ((s.modWriter fun w => { w with holding := w.holding ++ [c], pointer := k + 1 }).modRingUnit fun u =>
      { u with claim := none, shadowMarked := true }).modRing n.succ fun r => { r with consumer := r.consumer + 1 }
  notice : k = 6 → ∀ m : SlotId, s.nextNotice = some m →
    g = ((s.modWriter fun w => { w with holding := w.holding ++ [c], pointer := k + 1 }).modStation m fun st =>
      { st with notice := false }).modWriter fun w => { w with noticeNext := m + 1 }

theorem State.claimOf_line (s : State) (n : LineId) : s.claimOf (lineClaimant n) = (s.line n).claim := by
  fin_cases n <;> rfl

theorem State.grantClaimant_line (s : State) (n : LineId) :
    s.grantClaimant (lineClaimant n) = (s.line n).claim.map (s.grantLine n) := by
  fin_cases n <;> rfl

/-- Every claimant is a line, the Admin Processor, the Ring Unit or the notice scanner (R151). -/
theorem claimant_cases (k : Fin 7) : (∃ n, k = lineClaimant n) ∨ k = 4 ∨ k = 5 ∨ k = 6 := by
  revert k
  decide

theorem lineClaimant_ne (n : LineId) : lineClaimant n ≠ 4 ∧ lineClaimant n ≠ 5 ∧ lineClaimant n ≠ 6 := by
  revert n
  decide

theorem State.grantClaimant_of_none {s : State} {k : Fin 7} (h : s.claimOf k = none) : s.grantClaimant k = none := by
  obtain ⟨n, rfl⟩ | rfl | rfl | rfl := claimant_cases k
  case inl =>
    rw [State.claimOf_line] at h
    rw [State.grantClaimant_line, h]
    rfl
  case inr.inl =>
    cases hadmin : s.admin with
    | claiming c => simp [State.claimOf, hadmin] at h
    | _ => simp [State.grantClaimant, hadmin]
  case inr.inr.inl => simpa [State.claimOf, State.grantClaimant] using h
  case inr.inr.inr => simpa [State.claimOf, State.grantClaimant] using h

theorem State.grantClaimant_of_claim {s : State} {k : Fin 7} {c : Completion} (h : s.claimOf k = some c) :
    ∃ g, s.grantClaimant k = some g ∧ s.Grants k c g := by
  obtain ⟨n, rfl⟩ | rfl | rfl | rfl := claimant_cases k
  case inl =>
    have ⟨h4, h5, h6⟩ := lineClaimant_ne n
    rw [State.claimOf_line] at h
    refine ⟨s.grantLine n c, by rw [State.grantClaimant_line, h]; rfl, fun m hm => ?_, fun hk => absurd hk h4,
      fun hk => absurd hk h5, fun hk => absurd hk h6⟩
    have hmn : n = m := Fin.ext hm
    rw [← hmn]
    rfl
  case inr.inl =>
    cases hadmin : s.admin with
    | claiming d =>
      rw [State.claimOf, hadmin] at h
      obtain rfl : d = c := Option.some.inj h
      refine ⟨_, by rw [State.grantClaimant, hadmin]; rfl, fun n hn => absurd hn (Nat.ne_of_gt n.isLt), fun _ => rfl,
        fun hk => absurd hk (by decide), fun hk => absurd hk (by decide)⟩
    | _ => simp [State.claimOf, hadmin] at h
  case inr.inr.inl =>
    obtain ⟨⟨n, d⟩, hclaim, rfl⟩ := Option.map_eq_some_iff.mp h
    refine ⟨_, by rw [State.grantClaimant, hclaim]; rfl, fun n hn => absurd hn (Nat.ne_of_gt (n.isLt.trans (by decide))),
      fun hk => absurd hk (by decide), fun _ m p hp => ?_, fun hk => absurd hk (by decide)⟩
    obtain ⟨rfl, rfl⟩ := Prod.mk.inj (Option.some.inj (hclaim.symm.trans hp))
    rfl
  case inr.inr.inr =>
    obtain ⟨m, hnext, rfl⟩ := Option.map_eq_some_iff.mp h
    refine ⟨_, by rw [State.grantClaimant, hnext]; rfl, fun n hn => absurd hn (Nat.ne_of_gt (n.isLt.trans (by decide))),
      fun hk => absurd hk (by decide), fun hk => absurd hk (by decide), fun _ j hj => ?_⟩
    obtain rfl : m = j := Option.some.inj (hnext.symm.trans hj)
    rfl

theorem State.grantOne_of_refused {s : State}
    (h : 16 ≤ s.writer.holding.length ∨ s.hbi.device = .faulted ∨ (∀ k, s.claimOf k = none)) : s.grantOne = s := by
  rw [State.grantOne]
  obtain hrefused | hnone : (16 ≤ s.writer.holding.length ∨ s.hbi.device = .faulted) ∨ ∀ k, s.claimOf k = none := by
    rwa [or_assoc]
  · rw [State.mayGrant_eq_false hrefused]
    rfl
  · have hsearch : (claimOrder s.writer.pointer).findSome? s.grantClaimant = none := by
      rw [claimOrder_eq]
      exact findSome?_map_add_of_none fun k => State.grantClaimant_of_none (hnone k)
    rw [hsearch]
    exact ite_self _

/-- The first waiting claimant counting from the pointer is granted (R151). -/
theorem State.grantOne_of_first {s : State} (hroom : s.writer.holding.length < 16) (hdevice : s.hbi.device ≠ .faulted)
    {k j : Fin 7} {c : Completion} (hk : k = s.writer.pointer + j) (hclaim : s.claimOf k = some c)
    (hbefore : ∀ i : Fin 7, i < j → s.claimOf (s.writer.pointer + i) = none) : s.Grants k c s.grantOne := by
  obtain ⟨g, hg, hgrants⟩ := State.grantClaimant_of_claim hclaim
  have hsearch : (claimOrder s.writer.pointer).findSome? s.grantClaimant = some g := by
    rw [claimOrder_eq]
    exact findSome?_map_add_of_first (hk ▸ hg) fun i hi => State.grantClaimant_of_none (hbefore i hi)
  have hgranted : s.grantOne = g := by
    rw [State.grantOne, if_pos ((s.mayGrant_iff).mpr ⟨hroom, hdevice⟩), hsearch]
    rfl
  rw [hgranted]
  exact hgrants

/-- Settles O27: the first claimant of the round robin, by its kind. -/
theorem claimIsGrantedRoundRobin : Obligations.ClaimIsGrantedRoundRobin := by
  refine fun s => ⟨fun h => ?refused, fun hroom hdevice k j c hk hclaim hbefore => ?granted, fun j hj hbefore => ?scan,
    fun m hm => ?notice⟩
  case refused => exact congrArg (fun u => Host.Outcome.next (State.eventEnd u)) (State.grantOne_of_refused h)
  case granted =>
    have hgrants := State.grantOne_of_first hroom hdevice hk hclaim hbefore
    have hrun (g : State) (hg : s.grantOne = g) : exec .claimGrant s = .next g.eventEnd :=
      congrArg (fun u => Host.Outcome.next (State.eventEnd u)) hg
    exact ⟨fun n hn => hrun _ (hgrants.line n hn), fun h4 => hrun _ (hgrants.admin h4),
      fun h5 n q hq => hrun _ (hgrants.record h5 n q hq), fun h6 m hm => hrun _ (hgrants.notice h6 m hm)⟩
  case scan => exact find?_map_add_of_first (f := fun k => (s.station k).notice) hj hbefore
  case notice =>
    rw [State.claimOf, hm]
    simp only [Option.map_some, State.noticeOf, byteOf, stampOf_eq, BitVec.ofNat_toNat]

/-! ### A written completion (R152, R184) -/

/-- A completion record is counted at the Completion Writer: the producer index and the phase, the moderation count, the holdoff timer
(R152, R184). -/
def CompletionWriter.counted (w : CompletionWriter) : CompletionWriter :=
  { w with
    producer := w.producer + 1
    phase := if (w.producer + 1).toNat % w.size = 0 then !w.phase else w.phase
    moderationCount := if w.moderationCount < 255 then w.moderationCount + 1 else 255
    holdoffTimer := match w.holdoffTimer with
      | some k => some k
      | none => if w.holdoff = 0 then none else some w.holdoff.toNat }

/-- A completion record is counted, and COMPLETION is latched with the threshold 0 or reached (R184). -/
def State.written (g : State) : State :=
  { g with
    writer := g.writer.counted
    hbi := { g.hbi with
      attention := if g.writer.threshold = 0 ∨ g.writer.threshold.toNat ≤ g.writer.counted.moderationCount then g.hbi.attention ||| 0x01#7
        else g.hbi.attention } }

theorem holdoffTimer_eq (timer : Option Nat) (holdoff : Half) :
    (if timer.isNone && decide (0 < holdoff.toNat) then some holdoff.toNat else timer) =
      match timer with
      | some k => some k
      | none => if holdoff = 0 then none else some holdoff.toNat := by
  cases timer with
  | some k => rfl
  | none =>
    by_cases h : holdoff = 0
    · rw [h]
      rfl
    · have hpos : 0 < holdoff.toNat := Nat.pos_of_ne_zero fun k => h (BitVec.eq_of_toNat_eq k)
      exact (if_pos (by simp [hpos])).trans (if_neg h).symm

theorem CompletionWriter.thresholdReached_iff (w : CompletionWriter) :
    w.thresholdReached = true ↔ w.threshold = 0 ∨ w.threshold.toNat ≤ w.moderationCount := by
  rw [CompletionWriter.thresholdReached, Bool.or_eq_true, beq_iff_eq, decide_eq_true_iff]
  exact Iff.rfl

theorem State.countWritten_advance (g : State) : (g.modWriter CompletionWriter.advance).countWritten = g.written := by
  have hwriter : g.written.writer = { g.writer.advance with
      moderationCount := satSucc 255 g.writer.moderationCount
      holdoffTimer := if g.writer.holdoffTimer.isNone && decide (0 < g.writer.holdoff.toNat) then some g.writer.holdoff.toNat
        else g.writer.holdoffTimer } :=
    congrArg (fun timer => { g.writer.advance with
      moderationCount := satSucc 255 g.writer.moderationCount, holdoffTimer := timer }) (holdoffTimer_eq ..).symm
  have hcount : (g.modWriter CompletionWriter.advance).countWritten =
      if g.written.writer.thresholdReached then { g with writer := g.written.writer }.latch .completion
      else { g with writer := g.written.writer } := by
    rw [hwriter]
    rfl
  rw [hcount]
  by_cases h : g.written.writer.thresholdReached = true
  · have hreached := (CompletionWriter.thresholdReached_iff _).mp h
    rw [if_pos h]
    exact congrArg (fun a => { g with writer := g.written.writer, hbi := { g.hbi with attention := a } }) (if_pos hreached).symm
  · have hnot := mt (CompletionWriter.thresholdReached_iff _).mpr h
    rw [if_neg h]
    exact congrArg (fun a => { g with writer := g.written.writer, hbi := { g.hbi with attention := a } }) (if_neg hnot).symm

/-- The state in which a written completion has left the holding queue and the bus is free (R152 step 1). -/
def State.leftQueue (s : State) (rest : List Completion) : State :=
  { s with hbi := { s.hbi with burst := none }, writer := { s.writer with holding := rest } }

theorem exec_completionWriteEnd {s : State} (hburst : s.burstOf .completionWriter = true) (hreset : s.hbi.resetting = none)
    (hdevice : s.hbi.device ≠ .faulted) {c : Completion} {rest : List Completion} (hholding : s.writer.holding = c :: rest) :
    exec (.completionWriteEnd false) s = .next (s.leftQueue rest).grantFreed.written.eventEnd := by
  have hleft : (s.clearBurst.modWriter fun w => { w with holding := w.holding.drop 1 }) = s.leftQueue rest := by
    have hdrop : s.writer.holding.drop 1 = rest := by rw [hholding]; rfl
    exact congrArg (fun l => { s.clearBurst with writer := { s.writer with holding := l } }) hdrop
  refine congrArg Host.Outcome.next ((State.burstEnd_of_burst hburst hreset _).trans ((if_neg hdevice).trans ?_))
  rw [if_neg Bool.false_ne_true, State.completionDone, hleft, State.countWritten_advance]

theorem CycleTimer.isRunning_iff (t : CycleTimer) : t.isRunning = true ↔ ∃ p, t = .running p := by
  cases t <;> simp [CycleTimer.isRunning]

theorem Poll.reportsOverrun_iff (p : Poll) : p.reportsOverrun = true ↔ p.mode = .always ∨ p.mode = .onError := by
  rw [Poll.reportsOverrun, Bool.or_eq_true, beq_iff_eq, beq_iff_eq]

theorem Poll.losesPoll_iff (p : Poll) (cycle : Word) :
    p.losesPoll cycle = true ↔ p.state = .inFlight ∧ p.dueAgain = true ∧ cycle.toNat % p.divisor = p.phase := by
  simp only [Poll.losesPoll, Poll.dueIn, Bool.and_eq_true, beq_iff_eq, and_assoc]

/-- A cycle start whose OVERRUN report is due is the command that waits first (R98, log entry 13). -/
theorem State.overrunComes_iff (s : State) :
    s.overrunComes = true ↔ ∃ n next p, s.pending = .cycleStart n :: next ∧ (s.line n).cycleTimer = .running p ∧
      ∃ id ∈ (s.line n).pollList, ((s.poll id).mode = .always ∨ (s.poll id).mode = .onError) ∧
        ((s.poll id).state = .due ∨ ((s.poll id).state = .inFlight ∧ (s.poll id).dueAgain = true ∧
          ((s.line n).counters.cycle + 1).toNat % (s.poll id).divisor = (s.poll id).phase)) := by
  have hdue (n : LineId) : s.overrunDue n = true ↔ ∃ id ∈ (s.line n).pollList,
      ((s.poll id).mode = .always ∨ (s.poll id).mode = .onError) ∧
        ((s.poll id).state = .due ∨ ((s.poll id).state = .inFlight ∧ (s.poll id).dueAgain = true ∧
          ((s.line n).counters.cycle + 1).toNat % (s.poll id).divisor = (s.poll id).phase)) := by
    simp only [State.overrunDue, List.any_eq_true, Bool.and_eq_true, Bool.or_eq_true, beq_iff_eq, Poll.reportsOverrun_iff,
      Poll.losesPoll_iff]
  rw [State.overrunComes]
  split
  · next n next hpending =>
    rw [Bool.and_eq_true, CycleTimer.isRunning_iff, hdue]
    constructor
    · rintro ⟨⟨p, hp⟩, hover⟩
      exact ⟨n, next, p, hpending, hp, hover⟩
    · rintro ⟨m, next', p, hm, hp, hover⟩
      obtain ⟨rfl, -⟩ : m = n ∧ next' = next := by
        rw [hpending] at hm
        injection hm with h1 h2
        injection h1 with h1
        exact ⟨h1.symm, h2.symm⟩
      exact ⟨⟨p, hp⟩, hover⟩
  · next hother =>
    refine iff_of_false Bool.false_ne_true ?_
    rintro ⟨n, next, -, hpending, -⟩
    exact hother n next hpending

theorem State.claimWaits_of_first {s : State} {k j : Fin 7} {c : Completion} (hk : k = s.writer.pointer + j)
    (hclaim : s.claimOf k = some c) : s.claimWaits = true := by
  obtain ⟨g, hg, -⟩ := State.grantClaimant_of_claim hclaim
  rw [State.claimWaits, claimOrder_eq, List.findSome?_isSome_iff]
  exact ⟨k, hk ▸ List.mem_map_of_mem (List.mem_finRange j), by rw [hg]; rfl⟩

theorem State.claimWaits_of_none {s : State} (h : ∀ k, s.claimOf k = none) : s.claimWaits = false := by
  rw [State.claimWaits, claimOrder_eq, findSome?_map_add_of_none fun k => State.grantClaimant_of_none (h k)]
  rfl

theorem State.grantFreed_of_none {s : State} (h : ∀ k, s.claimOf k = none) : s.grantFreed = s := by
  rw [State.grantFreed, State.claimWaits_of_none h]
  exact State.grantOne_of_refused (.inr (.inr h))

theorem State.grantFreed_of_not_comes {s : State} (h : s.overrunComes = false) : s.grantFreed = s.grantOne := by
  rw [State.grantFreed, h, Bool.and_false]
  rfl

theorem getElem_of_or_eq {a b : BitVec 7} (h : a ||| b = b) {i : Fin 7} (hi : a[i] = true) : b[i] = true := by
  have hbit : (a ||| b)[i] = true := (BitVec.getElem_or ..).trans (by rw [show a[i.val] = true from hi]; rfl)
  rwa [h] at hbit

/-- Settles O26: the four steps of R152, the grant of the freed entry by the next command of the queue, and the holdoff timer's expiry. -/
theorem completionWriteEnds : Obligations.CompletionWriteEnds := by
  refine ⟨fun s c rest hburst hreset hdevice hholding => ?written,
    fun s c rest hburst hreset hdevice hholding hroom => ?granted, fun s => ⟨fun k hk => ?expires, fun hnone => ?stopped⟩⟩
  case written =>
    have hgrant := (s.leftQueue rest).grantFreed_moves (pace := .still)
    have hend := (s.leftQueue rest).grantFreed.written.eventEnd_moves
    obtain ⟨cs, q, m, hwriter⟩ := hgrant.writerJoins (by nofun)
    obtain ⟨ds, q', m', hwriter'⟩ := hend.writerJoins (by nofun)
    have hkept := hgrant.attention (by nofun)
    have hkept' := hend.attention (by nofun)
    refine ⟨_, cs ++ ds, exec_completionWriteEnd hburst hreset hdevice hholding, ?_⟩
    generalize (s.leftQueue rest).grantFreed = g at hwriter hwriter' hkept hkept' ⊢
    change g.writer = { s.writer with holding := rest ++ cs, pointer := q, noticeNext := m } at hwriter
    have hcounted : g.written.writer = _ := congrArg CompletionWriter.counted hwriter
    rw [hcounted] at hwriter'
    rw [hwriter']
    refine ⟨List.append_assoc _ _ _, rfl, rfl, rfl, rfl, rfl, rfl, rfl, fun hreached => ?_, fun i hi => ?_⟩
    · have hattention : g.written.hbi.attention = g.hbi.attention ||| 0x01#7 := by
        refine if_pos ?_
        rw [hwriter]
        exact hreached
      refine getElem_of_or_eq (i := 0) hkept' ?_
      rw [hattention]
      exact (BitVec.getElem_or ..).trans (Bool.or_true _)
    · have hg : g.hbi.attention[i] = true := getElem_of_or_eq hkept hi
      refine getElem_of_or_eq hkept' (getElem_of_or_eq (a := g.hbi.attention) ?_ hg)
      rw [State.written]
      dsimp only
      split
      · rw [← BitVec.or_assoc, BitVec.or_self]
      · exact BitVec.or_self
  case granted =>
    intro q written run
    have hrun : run = .next q.grantFreed.written.eventEnd := exec_completionWriteEnd hburst hreset hdevice hholding
    refine ⟨fun hnone => ?_, fun k j w hk hclaim hbefore => ?_⟩
    · rw [hrun, State.grantFreed_of_none hnone]
      rfl
    intro granted comes
    have hcomes : comes ↔ q.overrunComes = true := q.overrunComes_iff.symm
    refine ⟨fun hnot => ⟨q.grantOne, ?_, ?_⟩, fun hyes => ?_⟩
    · have hgrants := State.grantOne_of_first (s := q) hroom hdevice hk hclaim hbefore
      exact ⟨hgrants.line, hgrants.admin, hgrants.record, hgrants.notice⟩
    · rw [hrun, State.grantFreed_of_not_comes (Bool.eq_false_iff.mpr fun h => hnot (hcomes.mpr h))]
      rfl
    · have hfreed : q.grantFreed = if q.freeValue % 2 = 0 then q.nextFree.grantOne else q.nextFree := by
        rw [State.grantFreed, State.claimWaits_of_first (s := q) hk hclaim, hcomes.mp hyes]
        rfl
      rw [hrun, hfreed]
      split
      · have hgrants := State.grantOne_of_first (s := q.nextFree) hroom hdevice hk hclaim hbefore
        exact .inl ⟨_, ⟨hgrants.line, hgrants.admin, hgrants.record, hgrants.notice⟩, rfl⟩
      · exact .inr rfl
  case expires =>
    refine ⟨(s.modWriter fun w => { w with holdoffTimer := none }).latch .completion, ?_, State.latch_attention_getElem _ _, rfl⟩
    exact congrArg Host.Outcome.next (if_pos (by rw [hk]; rfl))
  case stopped => exact congrArg Host.Outcome.next (if_neg (by rw [hnone]; decide))

end Sys2Proof.Machine
end

section
/-! PROOFS. The ends of the record fetches (R146 to R148, R192, R193) and of the context load (R137, R138, R178). -/

namespace Sys2Proof.Machine

/-! ### The end of a record fetch -/

theorem exec_recordFetchEnd {s : State} {r : RingId} (hburst : s.burstOf (.ringFetch r) = true) (hreset : s.hbi.resetting = none)
    (error : Bool) (data : Vector Byte 32) :
    exec (.recordFetchEnd error data) s = .next (s.clearBurst.fetched r error data) :=
  congrArg Host.Outcome.next (State.fetchEnd_of_burst hburst hreset error data)

theorem State.fetched_error {s : State} (hdevice : s.hbi.device ≠ .faulted) (r : RingId) (data : Vector Byte 32) :
    s.fetched r true data = (s.faultRing r .fetchError).askFetch := if_neg hdevice

/-! ### The admin ring (R148, R193) -/

theorem adminBody_getElem (data : Vector Byte 32) (k : Fin 29) : (adminBody data)[k] = data.toList.getD (3 + k.val) 0#8 := by
  have hk : k.val + 3 < 32 := Nat.add_lt_add_right k.isLt 3
  rw [Nat.add_comm, getD_eq_recByte data hk]
  exact Vector.getElem_ofFn ..

/-- An argument byte is the byte of the record at its offset (R193). -/
theorem argByte_adminBody (data : Vector Byte 32) {k : Nat} (h3 : 3 ≤ k) (h31 : k ≤ 31) :
    argByte (adminBody data) k = data.toList.getD k 0#8 := by
  have hk : k - 3 < 29 := by omega
  have h := adminBody_getElem data ⟨k - 3, hk⟩
  rw [Nat.add_sub_cancel' h3, Fin.getElem_fin] at h
  rw [← h, argByte, List.getD_eq_getElem _ _ (by rw [Vector.length_toList]; exact hk), Vector.getElem_toList]

theorem argNat_adminBody (data : Vector Byte 32) {k : Nat} (h3 : 3 ≤ k) (h31 : k ≤ 31) :
    argNat (adminBody data) k = (data.toList.getD k 0#8).toNat := congrArg BitVec.toNat (argByte_adminBody data h3 h31)

/-- The end of the admin ring's fetch is the row of the record's code (log entry 8). -/
theorem exec_recordFetchEnd_admin {s : State} (hburst : s.burstOf (.ringFetch 0) = true) (hreset : s.hbi.resetting = none)
    (data : Vector Byte 32) :
    exec (.recordFetchEnd false data) s =
      .next (s.adminRow fun t => t.runAdmin (adminTag data) (adminCode data) (adminBody data)) := by
  rw [exec_recordFetchEnd hburst hreset, State.adminRow, State.burstEnd_of_burst hburst hreset]
  rfl

theorem State.adminMayTake_iff (s : State) :
    s.adminMayTake = true ↔ s.hbi.device = .running ∧ s.admin = .idle ∧ s.ringUnit.fetchVoid = false := by
  simp [State.adminMayTake, and_assoc]

theorem State.runAdmin_of_unknown (s : State) (tag : Half) {code : Byte} (h : unknownCode code = true) (body : AdminBody) :
    s.runAdmin tag code body = s.runBadCommand tag code := by
  rw [unknownCode, Bool.or_eq_true, beq_iff_eq, decide_eq_true_iff] at h
  rw [State.runAdmin]
  split
  case h_15 => rfl
  all_goals omega

/-- Settles O24: the bytes of the record at their offsets, then the take and the row of its code. -/
theorem adminFetchEnds : Obligations.AdminFetchEnds := by
  refine ⟨fun data => ?bytes, fun s data hburst hreset => ?ends⟩
  case bytes =>
    have hbyte (k : Nat) (h3 : 3 ≤ k) (h31 : k ≤ 31) := argNat_adminBody data h3 h31
    intro b body
    refine ⟨?_, ?_, fun k => congrArg BitVec.toNat (adminBody_getElem data k), fun k h3 h31 => ⟨hbyte k h3 h31, hbyte k h3 h31⟩,
      fun k h3 h30 => ?_, fun k h3 h28 => ?_⟩
    · simp only [b]
      rw [getD_eq_recByte data (by decide), getD_eq_recByte data (by decide)]
      exact ofLe16_toNat _ _
    · simp only [b]
      rw [getD_eq_recByte data (by decide)]
      rfl
    · rw [argHalf_toNat, hbyte k h3 (by omega), hbyte (k + 1) (by omega) (by omega)]
    · rw [argWord_toNat, hbyte k h3 (by omega), hbyte (k + 1) (by omega) (by omega), hbyte (k + 2) (by omega) (by omega),
        hbyte (k + 2 + 1) (by omega) (by omega)]
      simp only [b, Nat.add_assoc, Nat.reduceAdd]
      omega
  case ends =>
    have hrow := exec_recordFetchEnd_admin hburst hreset data
    have hcode {code : Byte} {run : State → State} (h : adminCode data = code)
        (hrun : ∀ t : State, t.runAdmin (adminTag data) code (adminBody data) = run t) :
        exec (.recordFetchEnd false data) s = .next (s.adminRow run) := by
      rw [hrow, h]
      exact congrArg (fun f => Host.Outcome.next (s.adminRow f)) (funext hrun)
    have hfetched := exec_recordFetchEnd hburst hreset false data
    refine ⟨fun hdevice => ?error, fun hfaulted => ?faulted, fun hdevice hnot => ?left, fun hdevice hidle hgood => ?taken,
      fun h => hcode h fun _ => rfl, fun h => hcode h fun _ => rfl, fun h => hcode h fun _ => rfl, fun h => hcode h fun _ => rfl,
      fun h => hcode h fun _ => rfl, fun h => hcode h fun _ => rfl, fun h => hcode h fun _ => rfl, fun h => hcode h fun _ => rfl,
      fun h => hcode h fun _ => rfl, fun h => hcode h fun _ => rfl, fun h => hcode h fun _ => rfl, fun h => hcode h fun _ => rfl,
      fun h => hcode h fun _ => rfl, fun h => hcode h fun _ => rfl, fun h => ?unknown⟩
    case error =>
      exact (exec_recordFetchEnd hburst hreset true data).trans
        (congrArg Host.Outcome.next (State.fetched_error (s := s.clearBurst) hdevice 0 data))
    case faulted => exact hfetched.trans (congrArg Host.Outcome.next (if_pos hfaulted))
    case left =>
      have hmay : s.clearBurst.adminMayTake = false := by
        rw [Bool.eq_false_iff, ne_eq, State.adminMayTake_iff]
        rintro ⟨hrunning, hidle, hgood⟩
        obtain h | h | h := hnot
        · exact h hrunning
        · exact h hidle
        · exact Bool.false_ne_true (hgood.symm.trans h)
      refine hfetched.trans (congrArg Host.Outcome.next ((if_neg hdevice).trans (congrArg State.askFetch ?_)))
      exact if_neg (Bool.eq_false_iff.mp hmay)
    case taken =>
      have hmay : s.clearBurst.adminMayTake = true := s.clearBurst.adminMayTake_iff.mpr ⟨hdevice, hidle, hgood⟩
      have hworks : s.clearBurst.hbi.device ≠ .faulted := by
        rw [State.clearBurst_device, hdevice]
        decide
      exact hfetched.trans (congrArg Host.Outcome.next ((if_neg hworks).trans (congrArg State.askFetch (if_pos hmay))))
    case unknown =>
      rw [hrow]
      have hbad : knownCode (adminCode data) = false := by
        simp only [unknownCode, Bool.or_eq_true, beq_iff_eq, decide_eq_true_iff] at h
        rw [knownCode, outside_eq]
        simp only [Bool.not_eq_false', decide_eq_true_eq]
        omega
      have hrun : (fun t : State => t.runAdmin (adminTag data) (adminCode data) (adminBody data)) =
          fun t => t.runBadCommand (adminTag data) (adminCode data) := funext fun t => t.runAdmin_of_unknown _ h _
      rw [hrun]
      exact congrArg Host.Outcome.next (if_neg (by rw [hbad]; decide)).symm

/-! ### The request rings (R146, R147, R192) -/

theorem decodeRequest_tag (data : Vector Byte 32) :
    (decodeRequest data).tag = ofLe32 (data.toList.getD 0 0#8) (data.toList.getD 1 0#8) (data.toList.getD 2 0#8)
      (data.toList.getD 3 0#8) := by
  rw [getD_eq_recByte data (by decide), getD_eq_recByte data (by decide), getD_eq_recByte data (by decide),
    getD_eq_recByte data (by decide)]
  rfl

theorem decodeRequest_flags (data : Vector Byte 32) :
    [(decodeRequest data).urgent, (decodeRequest data).broadcast, (decodeRequest data).bulkRead, (decodeRequest data).bulkWrite,
      (decodeRequest data).inlinePayload, (decodeRequest data).force] =
      (List.range 6).map fun i => (data.toList.getD 4 0#8).toNat.testBit i := by
  rw [getD_eq_recByte data (by decide)]
  rfl

theorem decodeRequest_address_toNat (data : Vector Byte 32) :
    (decodeRequest data).address.toNat = (data.toList.getD 5 0#8).toNat % 128 :=
  ((decodeRequest_address_eq_iff data _).mp rfl).symm

theorem decodeRequest_payloadArea (data : Vector Byte 32) :
    (decodeRequest data).payloadArea = (List.range 16).map fun j => data.toList.getD (12 + j) 0#8 := by
  refine List.ext_getElem (by simp [decodeRequest]) fun i hi _ => ?_
  have hi16 : i < 16 := by simpa [decodeRequest] using hi
  have hlength : 12 + i < data.toList.length := by
    rw [Vector.length_toList]
    omega
  rw [List.getElem_map, List.getElem_range, List.getD_eq_getElem _ _ hlength]
  exact (List.getElem_take ..).trans (List.getElem_drop ..)

theorem decodeRequest_payloadAddress_getD (data : Vector Byte 32) :
    (decodeRequest data).payloadAddress = ofLe32 (data.toList.getD 12 0#8) (data.toList.getD 13 0#8) (data.toList.getD 14 0#8)
      (data.toList.getD 15 0#8) := by
  rw [decodeRequest_payloadAddress, getD_eq_recByte data (by decide), getD_eq_recByte data (by decide),
    getD_eq_recByte data (by decide), getD_eq_recByte data (by decide)]
  rfl

theorem decodeRequest_responseAddress (data : Vector Byte 32) :
    (decodeRequest data).responseAddress = ofLe32 (data.toList.getD 28 0#8) (data.toList.getD 29 0#8) (data.toList.getD 30 0#8)
      (data.toList.getD 31 0#8) := by
  rw [getD_eq_recByte data (by decide), getD_eq_recByte data (by decide), getD_eq_recByte data (by decide),
    getD_eq_recByte data (by decide)]
  rfl

/-- A record fetch of a request ring that ends without error (R146, R147). -/
theorem State.fetched_request {s : State} (hdevice : s.hbi.device ≠ .faulted) (n : LineId) (data : Vector Byte 32) :
    s.fetched n.succ false data = (if s.requestMayTake n then s.takeRequest n data else s).askFetch := by
  simp [State.fetched, hdevice, Fin.succ_ne_zero]

/-- Settles O23: the fields at their offsets, then the record taken, claimed for, or left. -/
theorem requestFetchEnds : Obligations.RequestFetchEnds := by
  refine ⟨fun data => ?fields, fun s n error data hburst hreset hdevice => ?ends⟩
  case fields =>
    have hword (b0 b1 b2 b3 : Byte) : (ofLe32 b0 b1 b2 b3).toNat =
        b0.toNat + 256 * b1.toNat + 65536 * b2.toNat + 16777216 * b3.toNat := by
      rw [ofLe32_toNat]
      omega
    refine ⟨?_, decodeRequest_flags data, decodeRequest_address_toNat data, congrArg BitVec.toNat (decodeRequest_function data),
      decodeRequest_maxSegments data, decodeRequest_payloadLength data, decodeRequest_responseCapacity data,
      decodeRequest_payloadArea data, ?_, ?_⟩
    · rw [decodeRequest_tag, hword]
    · rw [decodeRequest_payloadAddress_getD, hword]
    · rw [decodeRequest_responseAddress, hword]
  case ends =>
    intro t r
    have hworks : t.hbi.device ≠ .faulted := hdevice
    have hend := exec_recordFetchEnd hburst hreset error data
    refine ⟨fun herror => ?error, fun herror hnot => ?left, fun herror hrunning hengine hstopping hvoid hroom => ?taken⟩
    case error =>
      subst herror
      exact hend.trans (congrArg Host.Outcome.next (State.fetched_error hworks n.succ data))
    case left =>
      subst herror
      have hmay : ¬t.requestMayTake n = true := by
        rw [State.requestMayTake_iff]
        rintro ⟨hrunning, hengine, hstopping, hvoid, -⟩
        obtain h | h | h | h := hnot
        · exact h hrunning
        · exact hengine h
        · rw [show (s.line n).stopping = none from hstopping] at h
          exact Bool.false_ne_true h
        · exact Bool.false_ne_true (hvoid.symm.trans h)
      refine hend.trans (congrArg Host.Outcome.next ((State.fetched_request hworks n data).trans ?_))
      rw [if_neg hmay]
    case taken =>
      subst herror
      have hmay : t.requestMayTake n = true := (t.requestMayTake_iff n).mpr ⟨hrunning, hengine, hstopping, hvoid, hroom⟩
      have htake : exec (.recordFetchEnd false data) s = .next (t.takeRequest n data).askFetch :=
        hend.trans (congrArg Host.Outcome.next (State.fetched_of_mayTake hmay data))
      refine ⟨fun hvalid => ?valid, fun k hcheck => ?malformed⟩
      case valid =>
        have hvalidTake : t.takeRequest n data = t.takeValid n r := by rw [State.takeRequest, hvalid]
        rw [htake, hvalidTake]
        rfl
      case malformed =>
        intro c
        have hc : t.malformedCompletion n r k = c := by
          simp only [State.malformedCompletion, State.stampNow, stampOf_eq]
          rfl
        refine ⟨fun hfree => ?granted, fun hfull => ?waits⟩
        case granted =>
          rw [htake, State.takeRequest_of_malformed hcheck hworks hfree n, hc]
          rfl
        case waits =>
          have hclaim : t.takeRequest n data = t.modRingUnit fun u => { u with claim := some (n, c) } := by
            rw [State.takeRequest, hcheck, ← hc]
            exact if_neg (Bool.eq_false_iff.mp (State.mayGrant_eq_false (.inl (Nat.le_of_eq hfull.symm))))
          rw [htake, hclaim]

/-! ### The context block (R137, R138, R198) -/

/-- Every byte of a part of a list has a property when each of the part's positions has it. -/
theorem all_take_drop_iff {α : Type} (l : List α) (d : α) (p : α → Bool) {a n : Nat} (h : a + n ≤ l.length) :
    ((l.drop a).take n).all p = true ↔ ∀ j, a ≤ j → j < a + n → p (l.getD j d) = true := by
  have hany := any_take_drop_iff l d (fun x => !p x) h
  rw [List.all_eq_not_any_not, Bool.not_eq_true', ← Bool.not_eq_true, hany]
  simp

theorem contextShadow_eq (data : Vector Byte 64) : contextShadow data = contextBase data 8 := by
  have hbyte (k : Fin 64) : data[k] = data.toList.getD k.val 0#8 := by simp [List.getD_eq_getElem?_getD]
  exact congr (congr (congr (congrArg ofLe32 (hbyte 32)) (hbyte 33)) (hbyte 34)) (hbyte 35)

/-- A context block whose address is aligned is valid by its rings, its shadow address and its reserved bytes (R137). -/
theorem contextValid_iff {address : Word} (haddress : address.toNat % 64 = 0) (data : Vector Byte 64) :
    contextValid address data = true ↔
      (∀ r < 6, (contextBase data r).toNat % 64 = 0 ∧ 4 ≤ contextLog2Size data r ∧ contextLog2Size data r ≤ 12) ∧
        (contextBase data 8).toNat % 16 = 0 ∧ data.toList.getD 30 0#8 = 0#8 ∧ data.toList.getD 31 0#8 = 0#8 ∧
        ∀ k, 36 ≤ k → k < 64 → data.toList.getD k 0#8 = 0#8 := by
  have hlength : data.toList.length = 64 := Vector.length_toList
  have hpair : ((data.toList.drop 30).take 2).all (· == 0#8) = true ↔
      data.toList.getD 30 0#8 = 0#8 ∧ data.toList.getD 31 0#8 = 0#8 := by
    rw [all_take_drop_iff data.toList 0#8 _ (by omega)]
    simp only [beq_iff_eq]
    refine ⟨fun h => ⟨h 30 (by omega) (by omega), h 31 (by omega) (by omega)⟩, fun ⟨h30, h31⟩ j hj hlt => ?_⟩
    obtain rfl | rfl : j = 30 ∨ j = 31 := by omega
    · exact h30
    · exact h31
  have htail : (data.toList.drop 36).all (· == 0#8) = true ↔ ∀ k, 36 ≤ k → k < 64 → data.toList.getD k 0#8 = 0#8 := by
    have hwhole : data.toList.drop 36 = (data.toList.drop 36).take 28 :=
      (List.take_of_length_le (by rw [List.length_drop, hlength])).symm
    rw [hwhole, all_take_drop_iff data.toList 0#8 _ (by omega)]
    simp only [beq_iff_eq, Nat.reduceAdd]
  have hsize (r : Nat) : (!outside 4 12 (contextLog2Size data r)) = true ↔
      4 ≤ contextLog2Size data r ∧ contextLog2Size data r ≤ 12 := by
    rw [outside_eq, Bool.not_eq_true', decide_eq_false_iff_not]
    omega
  simp only [contextValid, Bool.and_eq_true, hpair, htail, List.all_eq_true, List.mem_range, hsize, beq_iff_eq, haddress,
    contextShadow_eq]
  constructor
  · rintro ⟨⟨⟨⟨⟨-, hbase⟩, hlog⟩, hshadow⟩, h30, h31⟩, hrest⟩
    exact ⟨fun r hr => ⟨hbase r hr, hlog r hr⟩, hshadow, h30, h31, hrest⟩
  · rintro ⟨hrings, hshadow, h30, h31, hrest⟩
    exact ⟨⟨⟨⟨⟨trivial, fun r hr => (hrings r hr).1⟩, fun r hr => (hrings r hr).2⟩, hshadow⟩, h30, h31⟩, hrest⟩

theorem exec_contextLoadEnd {s : State} (hburst : s.burstOf .contextLoader = true) (hreset : s.hbi.resetting = none)
    (hdevice : s.hbi.device = .loading) (error : Bool) (data : Vector Byte 64) :
    exec (.contextLoadEnd error data) s =
      .next (if error then s.clearBurst.enterFaulted .contextBusError
        else if contextValid s.hbi.contextAddress data then s.clearBurst.loadContext data
        else s.clearBurst.enterFaulted .contextInvalid) :=
  congrArg Host.Outcome.next ((State.burstEnd_of_burst hburst hreset _).trans (if_pos hdevice))

theorem State.loadContext_eq (s : State) (data : Vector Byte 64) :
    s.loadContext data =
      { s with
        hbi := { s.hbi with
          device := if s.hbi.enable then .running else .halted
          attention := if s.hbi.enable then s.hbi.attention else s.hbi.attention ||| 0x20#7 }
        ringUnit := { s.ringUnit with rings := loadedRings data, shadowAddress := contextBase data 8, shadowMarked := true }
        writer := { s.writer with
          base := contextBase data 5, size := 2 ^ contextLog2Size data 5, producer := 0, released := 0, phase := true
          holding := [], pointer := 0 } } := by
  rw [State.loadContext, contextShadow_eq]
  by_cases henable : s.hbi.enable = true
  · rw [if_pos henable, if_pos henable, if_pos henable]
    rfl
  · rw [if_neg henable, if_neg henable, if_neg henable]
    rfl

/-- Settles O21: the two faults, and the block loaded. -/
theorem contextLoadEnds : Obligations.ContextLoadEnds := by
  intro s error data hburst hreset hdevice haddress t byte base valid
  have hend := exec_contextLoadEnd hburst hreset hdevice error data
  have hvalid : contextValid s.hbi.contextAddress data = true ↔ valid := contextValid_iff haddress data
  refine ⟨fun herror => ?_, fun herror hnot => ?_, fun herror hmet => ?_⟩
  · rw [hend, if_pos herror]
  · rw [hend, herror, if_neg (mt hvalid.mp hnot)]
    rfl
  · rw [hend, herror, if_pos (hvalid.mpr hmet)]
    refine ⟨_, rfl, fun r => ?rings, ?_, ?_, ?_, ?_⟩
    case rings =>
      rw [State.loadContext_eq]
      exact Vector.getElem_ofFn ..
    all_goals
      rw [State.loadContext_eq]
      rfl

end Sys2Proof.Machine
end

section
/-! PROOFS. The ends of the data movers' and the admin data writer's bursts (R34, R61, R102 to R104, R157, R168 to R171). -/

namespace Sys2Proof.Machine

/-! ### The bursts of a line's data mover (R34, R61, R102) -/

section

variable {s : State} {n : LineId} (hburst : s.burstOf (.dataMover n) = true) (hreset : s.hbi.resetting = none)
  (hdevice : s.hbi.device ≠ .faulted)

include hburst hreset hdevice

theorem exec_dataMoverBurstEnd (error : Bool) (data : Vector Byte 64) :
    exec (.dataMoverBurstEnd n error data) s =
      .next (match (s.line n).job with
        | some (.payloadRead address remaining bytes) =>
          s.clearBurst.payloadPart n error address remaining bytes (data.toList.take s.burstLength)
        | some (.responseWrite address bytes next) => s.clearBurst.responsePart n error address bytes next s.burstLength
        | some (.slotWrite write status d done stamp) => s.clearBurst.slotPart n error write status d done stamp s.burstLength
        | none => s.clearBurst).eventEnd :=
  congrArg Host.Outcome.next ((State.burstEnd_of_burst hburst hreset _).trans (if_neg hdevice))

theorem exec_payloadRead {address : Word} {remaining : Nat} {bytes : List Byte}
    (hjob : (s.line n).job = some (.payloadRead address remaining bytes)) (error : Bool) (data : Vector Byte 64) :
    exec (.dataMoverBurstEnd n error data) s =
      .next (s.clearBurst.payloadPart n error address remaining bytes (data.toList.take s.burstLength)).eventEnd := by
  rw [exec_dataMoverBurstEnd hburst hreset hdevice, hjob]

theorem exec_responseWrite {address : Word} {bytes : List Byte} {next : AfterWrite}
    (hjob : (s.line n).job = some (.responseWrite address bytes next)) (error : Bool) (data : Vector Byte 64) :
    exec (.dataMoverBurstEnd n error data) s =
      .next (s.clearBurst.responsePart n error address bytes next s.burstLength).eventEnd := by
  rw [exec_dataMoverBurstEnd hburst hreset hdevice, hjob]

theorem exec_slotWrite {write : SlotWrite} {status : Status} {payload : List Byte} {done : Nat} {stamp : Word}
    (hjob : (s.line n).job = some (.slotWrite write status payload done stamp)) (error : Bool) (data : Vector Byte 64) :
    exec (.dataMoverBurstEnd n error data) s =
      .next (s.clearBurst.slotPart n error write status payload done stamp s.burstLength).eventEnd := by
  rw [exec_dataMoverBurstEnd hburst hreset hdevice, hjob]

end

theorem State.cutEnd_of_working {s : State} (h : s.hbi.device ≠ .faulted) (n : LineId) : s.cutEnd n = s.endExchange n .aborted 0 :=
  if_neg h

/-- Settles O29: the payload read and the response write, cut, ended with an error, read or written on, and at their last burst. -/
theorem dataMoverBurstEnds : Obligations.DataMoverBurstEnds := by
  refine ⟨fun s n error data address remaining bytes x hburst hreset hdevice hjob hexchange hlength => ?read,
    fun s n data address bytes next x hburst hreset hdevice hjob hexchange => ?write⟩
  case read =>
    intro t read
    have hend := exec_payloadRead hburst hreset hdevice hjob error data
    have hread : read.length = s.burstLength := by
      rw [List.length_take, Vector.length_toList]
      omega
    have hrun {u : State} (h : t.payloadPart n error address remaining bytes read = u) :
        exec (.dataMoverBurstEnd n error data) s = .next u.eventEnd :=
      hend.trans (congrArg (fun v => Host.Outcome.next (State.eventEnd v)) h)
    refine ⟨fun hcut => hrun ?cut, fun hnot => ⟨fun herror => hrun ?error, fun hgood hmore => hrun ?readOn, fun hgood hlast => hrun ?last⟩⟩
    case cut => exact (if_pos hcut).trans (State.cutEnd_of_working (s := t) hdevice n)
    all_goals refine (if_neg (Bool.eq_false_iff.mp hnot)).trans ?_
    case error => exact if_pos herror
    case readOn =>
      refine (if_neg (Bool.eq_false_iff.mp hgood)).trans ((if_neg (by rw [hread]; omega)).trans ?_)
      rw [hread]
    case last =>
      refine (if_neg (Bool.eq_false_iff.mp hgood)).trans ((if_pos (by rw [hread]; omega)).trans ?_)
      have ht : (t.line n).exchange = some x := hexchange
      rw [ht]
      rfl
  case write =>
    intro t y u
    have hend (error : Bool) := exec_responseWrite hburst hreset hdevice hjob error data
    have hu : (t.modExchange n fun x => { x with delivered := x.delivered + s.burstLength, residue := x.residue - s.burstLength }) = u :=
      State.modExchange_of_some (s := t) hexchange _
    have hrun {error : Bool} {v : State} (h : t.responsePart n error address bytes next s.burstLength = v) :
        exec (.dataMoverBurstEnd n error data) s = .next v.eventEnd :=
      (hend error).trans (congrArg (fun v => Host.Outcome.next (State.eventEnd v)) h)
    have hgood : t.responsePart n false address bytes next s.burstLength =
        if (t.line n).cutting then u.cutEnd n
        else if bytes.length ≤ s.burstLength then u.afterWrite n next
        else u.modLine n fun l =>
          { l with job := some (.responseWrite (address + BitVec.ofNat 32 s.burstLength) (bytes.drop s.burstLength) next) } := by
      rw [← hu]
      rfl
    refine ⟨fun hcut => ⟨hrun ?cutError, hrun ?cut⟩, fun hnot => ⟨hrun ?error, fun hmore => hrun ?writeOn, fun hlast => ?last⟩⟩
    case cutError => exact (if_pos hcut).trans (State.cutEnd_of_working (s := t) hdevice n)
    case cut => exact hgood.trans ((if_pos hcut).trans (State.cutEnd_of_working (s := u) hdevice n))
    case error => exact (if_neg (Bool.eq_false_iff.mp hnot)).trans (if_pos rfl)
    case writeOn => exact hgood.trans ((if_neg (Bool.eq_false_iff.mp hnot)).trans (if_neg (by omega)))
    case last =>
      have hwritten := hgood.trans ((if_neg (Bool.eq_false_iff.mp hnot)).trans (if_pos hlast))
      refine ⟨fun status hnext => hrun (hwritten.trans (by rw [hnext]; rfl)), fun hnext => hrun (hwritten.trans ?_)⟩
      have hexchange' : (u.line n).exchange = some y := by
        simp only [u, State.modLine_line_self]
      rw [hnext]
      exact congrArg (fun v : State => v.prepareRequest n) (State.modExchange_of_some hexchange' _)

/-- The line's exchange is of this poll entry. -/
theorem Line.pollId_of_exchange {l : Line} {x : Exchange} {id : PollId} (hexchange : l.exchange = some x)
    (horigin : x.origin = .poll id) : l.pollId = id := by
  rw [Line.pollId, hexchange]
  simp only [horigin]

/-- Settles O30: the four writes in their order, and the report decision after the last or after an error. -/
theorem slotWritesFollowInOrder : Obligations.SlotWritesFollowInOrder := by
  intro s n data write status payload done stamp id x hburst hreset hdevice hjob hexchange horigin t goOn
  have hid : (t.line n).pollId = id := Line.pollId_of_exchange (l := s.line n) hexchange horigin
  have hrun {error : Bool} {u : State} (h : t.slotPart n error write status payload done stamp s.burstLength = u) :
      exec (.dataMoverBurstEnd n error data) s = .next u.eventEnd :=
    (exec_slotWrite hburst hreset hdevice hjob error data).trans (congrArg (fun v => Host.Outcome.next (State.eventEnd v)) h)
  have hreport (u : State) (hu : (u.line n).exchange = some x) : u.slotReport n id = u.pollReport n id x := by
    rw [State.slotReport, hu]
  refine ⟨hrun ?error, fun hwrite => hrun ?odd, fun hwrite hlast => hrun ?data, fun hwrite hmore => hrun ?dataOn,
    fun hwrite => hrun ?header, fun hwrite => hrun ?even⟩
  case error =>
    rw [State.slotPart.eq_def, hid]
    exact hreport _ hexchange
  all_goals rw [State.slotPart.eq_def, hid, hwrite]
  case odd =>
    simp only [List.isEmpty_iff]
    rfl
  case data => exact if_pos hlast
  case dataOn => exact if_neg (Nat.not_le.mpr hmore)
  case header => rfl
  case even => exact hreport t hexchange

/-! ### The admin data writer's burst (R157, R168, R169, R171) -/

theorem exec_adminDataWriteEnd {s : State} (hburst : s.burstOf .adminWriter = true) (hreset : s.hbi.resetting = none) (error : Bool) :
    exec (.adminDataWriteEnd error) s = .next (s.clearBurst.adminWritten error).eventEnd :=
  congrArg Host.Outcome.next (State.burstEnd_of_burst hburst hreset _)

theorem State.adminWritten_of_writing {s : State} {tag : Half} {w : AdminWrite} (hdevice : s.hbi.device ≠ .faulted)
    (hadmin : s.admin = .writing tag w) (error : Bool) :
    s.adminWritten error =
      if error then s.adminClaim (adminCompletion tag w.code .adminBusError 0 0 w.bytes w.stationState)
      else (w.complete s).adminClaim (adminCompletion tag w.code .done w.detail w.bytes 0 w.stationState) := by
  rw [State.adminWritten, if_neg hdevice, hadmin]

/-- Placed before an entry of the list, an id stands immediately before that entry's first place (R91). -/
theorem placeInList_before (id : PollId) {b : PollId} {front back : List PollId} (hb : b ∉ front) :
    placeInList (front ++ b :: back) id (some b) = front ++ id :: b :: back := by
  have hfront : ∀ a ∈ front, (a != b) = true := fun a ha => bne_iff_ne.mpr fun e => hb (e ▸ ha)
  rw [placeInList, List.takeWhile_append_of_pos hfront, List.dropWhile_append_of_pos hfront, List.takeWhile_cons_of_neg (by simp),
    List.dropWhile_cons_of_neg (by simp), List.append_nil]

theorem State.adminClaim_of_room {s : State} (hdevice : s.hbi.device ≠ .faulted) (hroom : s.writer.holding.length < 16)
    (c : Completion) :
    s.adminClaim c = (s.modWriter fun w => { w with holding := w.holding ++ [c], pointer := 5 }).setAdmin .idle := by
  rw [State.adminClaim, if_neg hdevice, State.tryClaim_of_room hroom hdevice]
  rfl

theorem State.adminClaim_of_full {s : State} (hdevice : s.hbi.device ≠ .faulted) (hfull : 16 ≤ s.writer.holding.length)
    (c : Completion) : s.adminClaim c = s.setAdmin (.claiming c) := by
  rw [State.adminClaim, if_neg hdevice, State.tryClaim_of_refused (.inl hfull)]

/-- Settles O31: the claim of a fixed completion, the end of each data write, and the place in the list. -/
theorem adminDataWriteEnds : Obligations.AdminDataWriteEnds := by
  refine ⟨⟨fun s c => ⟨fun h => if_pos h, fun hdevice hroom => State.adminClaim_of_room hdevice hroom c,
      fun hdevice hfull => State.adminClaim_of_full hdevice hfull c⟩, fun tag code status detail delivered residue state => ?completion⟩,
    fun s tag hburst hreset => ⟨fun hfaulted e => ?faulted, fun hdevice => ?working⟩,
    fun id list => ⟨rfl, fun b front back hlist hb => ?before⟩⟩
  case completion => rw [adminCompletion, BitVec.ofNat_toNat]
  case faulted =>
    exact (exec_adminDataWriteEnd hburst hreset e).trans
      (congrArg (fun v => Host.Outcome.next (State.eventEnd v)) (if_pos hfaulted))
  case working =>
    have hrun {w : AdminWrite} (hadmin : s.admin = .writing tag w) (error : Bool) :=
      (exec_adminDataWriteEnd hburst hreset error).trans (congrArg (fun v => Host.Outcome.next (State.eventEnd v))
        (State.adminWritten_of_writing (s := s.clearBurst) hdevice hadmin error))
    exact ⟨fun k a shown hadmin => ⟨hrun hadmin false, hrun hadmin true⟩,
      fun n a shown hadmin => ⟨hrun hadmin false, hrun hadmin true⟩, fun a hadmin => ⟨hrun hadmin false, hrun hadmin true⟩⟩
  case before =>
    rw [hlist]
    exact placeInList_before id hb

end Sys2Proof.Machine
end

section
/-! PROOFS. The Capture Unit's records: placement, the capture writer's bursts, reservations and admission (R122, R124, R128 to R130, R133, R197). -/

namespace Sys2Proof.Machine

/-! ### Placement (R128, R129, R197) -/

theorem recordBytes_eq (length : Nat) : recordBytes length = (length + 11) / 4 * 4 := by
  rw [recordBytes]
  omega

/-- The padding of a record is what its rounded length leaves behind the header and the payload. -/
theorem recordPadding_eq (length : Nat) : (4 - length % 4) % 4 = (length + 11) / 4 * 4 - 8 - length := by omega

theorem captureRecord_eq (n : LineId) (f : Staged) (lost : Bool) (stamp : Half) :
    captureRecord n f lost stamp =
      [BitVec.ofNat 8 f.payload.length, BitVec.ofNat 8 n.val, BitVec.ofNat 8 f.address.toNat, if lost then 1#8 else 0#8,
        BitVec.ofNat 8 stamp.toNat, BitVec.ofNat 8 (stamp.toNat / 256), 0#8, 0#8] ++ f.payload ++
        List.replicate ((f.payload.length + 11) / 4 * 4 - 8 - f.payload.length) 0#8 := by
  have hlow : stamp.extractLsb' 0 8 = BitVec.ofNat 8 stamp.toNat := by
    rw [BitVec.extractLsb', Nat.shiftRight_zero]
  have hhigh : stamp.extractLsb' 8 8 = BitVec.ofNat 8 (stamp.toNat / 256) := by
    rw [BitVec.extractLsb', Nat.shiftRight_eq_div_pow]
  have hlost : BitVec.ofNat 8 (bitOf lost) = if lost then 1#8 else 0#8 := by cases lost <;> rfl
  rw [captureRecord, recordPadding_eq, le16, hlow, hhigh, hlost, byteOf, byteOf]
  simp only [BitVec.ofNat_toNat]
  rfl

theorem captureRecord_length (n : LineId) (f : Staged) (lost : Bool) (stamp : Half) :
    (captureRecord n f lost stamp).length = (f.payload.length + 11) / 4 * 4 := by
  rw [captureRecord_eq]
  simp only [List.length_append, List.length_cons, List.length_nil, List.length_replicate]
  omega

/-- The record a staged frame becomes at its placement (R128, R129). -/
def State.placedRecord (s : State) (n : LineId) (f : Staged) (g : CaptureConfig) : Placed :=
  let tail := g.size - s.capture.placeOffset
  let fits := decide (recordBytes f.payload.length ≤ tail)
  let offset := if fits then s.capture.placeOffset else 0
  { line := n, pad := if fits then none else some (s.capture.placeOffset, tail), padWritten := false, offset := offset, written := 0
    bytes := captureRecord n f
      (s.capture.lost || (decide (g.mode = .loop) && (!fits || (s.capture.placeWrapped && offset == 0))))
      (stampOf (s.line n).counters.cycle) }

/-- The state in which a staged frame has been placed, its reservation not yet returned (R128, R129). -/
def State.placed (s : State) (n : LineId) (f : Staged) (g : CaptureConfig) : State :=
  let len := recordBytes f.payload.length
  let tail := g.size - s.capture.placeOffset
  let fits := decide (len ≤ tail)
  let offset := if fits then s.capture.placeOffset else 0
  s.modCapture fun c =>
    { c with
      placeOffset := if offset + len = g.size then 0 else offset + len
      placeWrapped := decide (offset + len = g.size)
      unreleased := if g.mode = .hold then c.unreleased + (len + (if fits then 0 else tail)) else c.unreleased
      lost := false
      writeQueue := c.writeQueue ++ [s.placedRecord n f g] }

theorem State.place_eq (s : State) (n : LineId) (f : Staged) (g : CaptureConfig) :
    s.place n f g = (s.placed n f g).returnReservation := rfl

theorem State.handOver_of_staged {s : State} {n : LineId} {f : Staged} {g : CaptureConfig} (hstaging : s.capture.staging[n] = some f)
    (hconfig : s.capture.config = some g) (hfault : s.capture.fault = false) : s.handOver n true = s.place n f g := by
  simp only [State.handOver, hstaging, hconfig, hfault, Bool.false_eq_true, if_false]

theorem State.handOver_of_none {s : State} {n : LineId} {staged : Bool} (h : staged = false ∨ s.capture.staging[n] = none) :
    s.handOver n staged = s.returnReservation := by
  unfold State.handOver
  split
  · next f g hf _ => exact absurd h (by simp [hf])
  · next f hf _ => exact absurd h (by simp [hf])
  · rfl

theorem State.handOver_of_closed {s : State} {n : LineId} (hstaging : s.capture.staging[n] ≠ none)
    (h : s.capture.fault = true ∨ s.capture.config = none) : s.handOver n true = s.discardStaged n := by
  obtain ⟨f, hf⟩ := Option.ne_none_iff_exists'.mp hstaging
  cases hconfig : s.capture.config with
  | none => simp only [State.handOver, hf, hconfig]
  | some g =>
    have hfault : s.capture.fault = true := h.resolve_right (by rw [hconfig]; nofun)
    simp only [State.handOver, hf, hconfig, hfault, if_true]

/-! ### The capture writer's bursts (R130, R133) -/

/-- The queue's head after a burst, the record not yet whole or whole and leaving (R130). -/
theorem State.captureAdvance_of_head {s : State} {p : Placed} {rest : List Placed} {g : CaptureConfig}
    (hqueue : s.capture.writeQueue = p :: rest) (hconfig : s.capture.config = some g) (length : Nat) :
    s.captureAdvance length =
      let t := s.modCapture fun c => { c with writeQueue := p.advance length :: rest }
      if (p.advance length).finished then t.recordWritten (p.advance length) g else t := by
  rw [State.captureAdvance, hqueue, hconfig]

theorem Placed.advance_pad {p : Placed} (hpad : p.pad.isSome = true) (hheader : p.padWritten = false) (length : Nat) :
    p.advance length = { p with padWritten := true } := by
  obtain ⟨q, hq⟩ := Option.isSome_iff_exists.mp hpad
  rw [Placed.advance, hq, hheader]

theorem Placed.advance_record {p : Placed} (h : p.pad = none ∨ p.padWritten = true) (length : Nat) :
    p.advance length = { p with written := p.written + length } := by
  rw [Placed.advance]
  split
  · next hq hheader => exact absurd h (by simp [hq, hheader])
  · rfl

theorem Placed.finished_iff (p : Placed) :
    p.finished = true ↔ (p.pad = none ∨ p.padWritten = true) ∧ p.bytes.length ≤ p.written := by
  rw [Placed.finished, Bool.and_eq_true, Bool.or_eq_true, Option.isNone_iff_eq_none, decide_eq_true_iff]

theorem exec_captureWriteEnd {s : State} (hburst : s.burstOf .captureWriter = true) (hreset : s.hbi.resetting = none)
    (hdevice : s.hbi.device ≠ .faulted) (error : Bool) :
    exec (.captureWriteEnd error) s =
      .next (if error then s.clearBurst.captureFault else s.clearBurst.captureAdvance s.burstLength).deferredApply.eventEnd :=
  congrArg Host.Outcome.next ((State.burstEnd_of_burst hburst hreset _).trans (if_neg hdevice))

/-- The last burst of a record ends, LOOP mode and a wrap apart (R130). -/
theorem State.recordWritten_facts (s : State) (p : Placed) (g : CaptureConfig) :
    let last := p.offset + p.bytes.length
    let wrap := p.pad.isSome || last == g.size
    let u := s.recordWritten p g
    u.capture =
        { s.capture with
          writeQueue := s.capture.writeQueue.drop 1, writeOffset := if last = g.size then 0 else last
          staging := s.capture.staging.set p.line none
          lapCount := if wrap then s.capture.lapCount + 1 else s.capture.lapCount } ∧
      (∀ i : Fin 7, u.hbi.attention[i] =
        (s.hbi.attention[i] || i.val == 1 || (i.val == 2 && wrap && decide (g.mode = .loop)))) ∧
      u = { s with capture := u.capture, hbi := { s.hbi with attention := u.hbi.attention } } := by
  intro last wrap u
  have hu : u = if wrap && decide (g.mode = .loop) then _ else _ := rfl
  by_cases h : (wrap && decide (g.mode = .loop)) = true
  · rw [if_pos h] at hu
    rw [hu]
    refine ⟨rfl, fun i => ?_, rfl⟩
    rw [State.latch_attention_getElem, State.latch_attention_getElem, Bool.and_assoc, h, Bool.and_true]
    rfl
  · rw [if_neg h] at hu
    rw [hu]
    refine ⟨rfl, fun i => ?_, rfl⟩
    rw [State.latch_attention_getElem, Bool.and_assoc, Bool.eq_false_iff.mpr h, Bool.and_false, Bool.or_false]
    rfl

theorem Capture.discardQueue_unreleased {c : Capture} {g : CaptureConfig} (hconfig : c.config = some g) :
    c.discardQueue.unreleased = if g.mode = .hold then c.unreleased - (c.writeQueue.map Placed.consumed).sum else c.unreleased := by
  cases hmode : g.mode with
  | hold => simp [Capture.discardQueue, Capture.holdConfig_of_hold hconfig hmode]
  | loop => simp [Capture.discardQueue, Capture.holdConfig_of_loop hconfig hmode]

/-! ### Admission (R122) -/

theorem Capture.admits_of_closed {c : Capture} (h : c.config = none ∨ c.fault = true ∨ c.reconfig = true) : c.admits = false := by
  rw [Capture.admits]
  split
  · rfl
  · next g hconfig =>
    obtain hnone | hfault | hreconfig := h
    · exact absurd hnone (by rw [hconfig]; nofun)
    · rw [hfault]
      rfl
    · rw [hreconfig, Bool.not_true, Bool.and_false]
      rfl

theorem Capture.admits_of_open {c : Capture} {g : CaptureConfig} (hconfig : c.config = some g) (hfault : c.fault = false)
    (hreconfig : c.reconfig = false) :
    c.admits = match g.mode with
      | .hold => !c.paused && decide (Config.reservationBytes ≤ c.freeSpace g)
      | .loop => true := by
  simp only [Capture.admits, hconfig, hfault, hreconfig]
  rfl

/-- Settles O28: placement, the capture writer's bursts, and the hand-over with its reservations. -/
theorem captureRecordIsPlacedAndWritten : Obligations.CaptureRecordIsPlacedAndWritten := by
  refine ⟨fun s n f g hstaging hconfig hfault hmin hmax => ?place,
    fun s p rest g hburst hreset hdevice hqueue hconfig hpart => ?write, fun s n => ?handOver⟩
  case place =>
    intro len tail fits
    have hlen : recordBytes f.payload.length = len := recordBytes_eq _
    have hfits : decide (recordBytes f.payload.length ≤ g.size - s.capture.placeOffset) = decide fits :=
      decide_eq_decide.mpr (by rw [hlen])
    have hhand : s.handOver n true = (s.placed n f g).returnReservation :=
      (State.handOver_of_staged hstaging hconfig hfault).trans (s.place_eq n f g)
    refine ⟨s.placed n f g, s.placedRecord n f g, hhand, rfl, captureRecord_length .., rfl, rfl, rfl, fun h => ?fits, fun h => ?tail,
      fun h => ?hold, fun h => ?loop, ?wrapped, fun lost stamp => captureRecord_eq .., ?capture⟩
    case fits => simp only [State.placedRecord, hfits, h, decide_true, if_true, and_self]
    case tail => simp only [State.placedRecord, hfits, h, decide_false, Bool.false_eq_true, if_false, tail, and_self]
    case hold =>
      simp only [State.placedRecord, h, stampOf_eq]
      simp
    case loop =>
      simp only [State.placedRecord, h, stampOf_eq, hfits]
      simp [Bool.or_assoc]
    case wrapped => simp only [State.placed, State.placedRecord, hlen]; rfl
    case capture =>
      have hused : (if decide fits = true then 0 else tail) = if fits then 0 else tail := by simp only [decide_eq_true_iff]
      simp only [State.placed, State.placedRecord, State.modCapture, hlen, ← hused, Nat.add_assoc]
      rfl
  case write =>
    intro t last wrap
    have hend := fun error => exec_captureWriteEnd hburst hreset hdevice error
    have hadvance := State.captureAdvance_of_head (s := t) hqueue hconfig s.burstLength
    have hrun {u : State} (h : t.captureAdvance s.burstLength = u) : exec (.captureWriteEnd false) s = .next u.deferredApply.eventEnd :=
      (hend false).trans (congrArg (fun v : State => Host.Outcome.next v.deferredApply.eventEnd) h)
    refine ⟨fun hpad hheader => hrun ?pad, fun hrecord => ⟨fun hmore => hrun ?more, fun hlast => ?last⟩, ?error⟩
    case pad =>
      have hq := Placed.advance_pad hpad hheader s.burstLength
      have hnot : ¬(p.advance s.burstLength).finished = true := by
        rw [Placed.finished_iff, hq]
        exact fun h => h.2.not_gt hpart
      rw [hadvance]
      dsimp only
      rw [if_neg hnot, hq]
    case more =>
      have hq := Placed.advance_record hrecord s.burstLength
      have hnot : ¬(p.advance s.burstLength).finished = true := by
        rw [Placed.finished_iff, hq]
        exact fun h => h.2.not_gt hmore
      rw [hadvance]
      dsimp only
      rw [if_neg hnot, hq]
    case last =>
      have hq := Placed.advance_record hrecord s.burstLength
      have hfinished : (p.advance s.burstLength).finished = true := by
        rw [Placed.finished_iff, hq]
        exact ⟨hrecord, hlast⟩
      have ht : t.captureAdvance s.burstLength =
          (t.modCapture fun c => { c with writeQueue := p.advance s.burstLength :: rest }).recordWritten (p.advance s.burstLength) g :=
        hadvance.trans (if_pos hfinished)
      have ⟨hcapture, hattention, hrest⟩ := State.recordWritten_facts
        (t.modCapture fun c => { c with writeQueue := p.advance s.burstLength :: rest }) (p.advance s.burstLength) g
      rw [hq] at ht hcapture hattention hrest
      have hlap : (wrap ↔ (p.pad.isSome || last == g.size) = true) := by
        rw [Bool.or_eq_true, beq_iff_eq]
      refine ⟨_, hrun ht, hcapture.trans ?_, fun h => ?_, fun h => ?_, hattention, ?_⟩
      · rw [hcapture]
        rfl
      · rw [hcapture]
        exact if_pos (hlap.mp h)
      · rw [hcapture]
        exact if_neg (mt hlap.mpr h)
      · exact hrest
    case error =>
      refine ⟨t.captureFault, hend true, ?_, State.latch_attention_getElem _ _, rfl⟩
      have hunreleased := Capture.discardQueue_unreleased (c := s.capture) hconfig
      exact congrArg (fun k => { s.capture.discardQueue with fault := true, unreleased := k }) hunreleased
  case handOver =>
    refine ⟨fun staged h => State.handOver_of_none h, State.handOver_of_closed, rfl, rfl, Capture.admits_of_closed,
      fun g hconfig hfault hreconfig => ⟨fun hmode => ?_, fun hmode => ?_⟩⟩
    · rw [Capture.admits_of_open hconfig hfault hreconfig, hmode]
      simp only [Bool.and_eq_true, Bool.not_eq_true', decide_eq_true_iff]
      rfl
    · rw [Capture.admits_of_open hconfig hfault hreconfig, hmode]

end Sys2Proof.Machine
end

section
/-! PROOFS. The exchange end (R65, R101, R111), the entry to IDLE (R35, R97), and the report of a POLL exchange (R104 to R106). -/

namespace Sys2Proof.Machine

/-! ### The end of an exchange, step by step (R65) -/

/-- The scanner's claims leave the lines and the poll entries alone (R81). -/
theorem State.postNoticesFuel_frame (fuel : Nat) (s : State) :
    (s.postNoticesFuel fuel).lines = s.lines ∧ (s.postNoticesFuel fuel).polls = s.polls := by
  induction fuel generalizing s with
  | zero => exact ⟨rfl, rfl⟩
  | succ fuel ih =>
    unfold State.postNoticesFuel
    split
    · split
      · exact ih _
      · exact ⟨rfl, rfl⟩
    · exact ⟨rfl, rfl⟩

/-- The exchange record as the end writes it (R65). -/
def State.endedExchange (s : State) (x : Exchange) (status : Status) (detail : Byte) : Exchange :=
  { x with status := some status, detail := detail, stationState := s.stateAfterStep1 x status }

theorem State.endExchange_eq {s : State} {n : LineId} {x : Exchange} (hexchange : (s.line n).exchange = some x) (status : Status)
    (detail : Byte) :
    s.endExchange n status detail =
      ((s.modLine n fun l => { l.leave with exchange := some (s.endedExchange x status detail), job := none }).accountExchange
        (s.endedExchange x status detail) status).informBlocks n (s.endedExchange x status detail) := by
  rw [State.endExchange, hexchange]
  rfl

theorem State.stateAfterStep1_of_station (s : State) {x : Exchange} {k : SlotId} (h : x.station = some k) (status : Status) :
    s.stateAfterStep1 x status = ((s.station k).exchangeEnd status x.frameSent).state.code := by
  rw [State.stateAfterStep1, h]
  rfl

theorem State.accountExchange_of_station (s : State) {x : Exchange} {k : SlotId} (h : x.station = some k) (status : Status) :
    s.accountExchange x status = (s.modStation k fun st => st.exchangeEnd status x.frameSent).postNotices := by
  rw [State.accountExchange, h]

theorem State.accountExchange_of_none (s : State) {x : Exchange} (h : x.station = none) (status : Status) :
    s.accountExchange x status = s := by
  rw [State.accountExchange, h]

theorem State.offerFor_of_station (s : State) (n : LineId) {x : Exchange} {k : SlotId} (h : x.station = some k) :
    s.offerFor n x = s.offerFetch n k := by
  rw [State.offerFor, h]

theorem State.offerFor_of_none (s : State) (n : LineId) {x : Exchange} (h : x.station = none) : s.offerFor n x = s := by
  rw [State.offerFor, h]

theorem State.informBlocks_of_request (s : State) (n : LineId) {x : Exchange} {r : Request} (h : x.origin = .request r) :
    s.informBlocks n x = (s.offerFor n x).endClaim n ((s.offerFor n x).requestCompletion n r x) := by
  rw [State.informBlocks, h]

theorem State.informBlocks_of_followUp (s : State) (n : LineId) {x : Exchange} {j : SlotId} (h : x.origin = .followUp j) :
    s.informBlocks n x =
      if x.source = .eventFetch then
        (((s.handOver n (s.capture.staging[n]).isSome).deferredApply).offerFor n x).enterIdle n
      else (s.offerFor n x).enterIdle n := by
  rw [State.informBlocks, h]

theorem State.informBlocks_of_poll (s : State) (n : LineId) {x : Exchange} {id : PollId} (h : x.origin = .poll id) :
    s.informBlocks n x = s.deliverSlot n id x := by
  rw [State.informBlocks, h]

theorem State.offerAccepted_iff (s : State) (n : LineId) (k : SlotId) :
    s.offerAccepted n k = true ↔ (s.station k).eventPending = true ∧ (s.station k).captureEnable = true ∧ (s.line n).stopping = none ∧
      s.hbi.device = .running ∧ (∀ f ∈ (s.line n).followUp, f.slot ≠ k) ∧ (s.line n).followUp.length < 8 ∧
      s.capture.admits = true := by
  simp only [State.offerAccepted, Bool.and_eq_true, Option.isNone_iff_eq_none, beq_iff_eq, List.all_eq_true, bne_iff_ne,
    decide_eq_true_eq, and_assoc]
  exact Iff.rfl

theorem State.endClaim_of_room {s : State} (hroom : s.writer.holding.length < 16) (hdevice : s.hbi.device ≠ .faulted) (n : LineId)
    (c : Completion) :
    s.endClaim n c =
      (s.modWriter fun w => { w with holding := w.holding ++ [c], pointer := Fin.ofNat 7 (n.val + 1) }).enterIdle n := by
  rw [State.endClaim, State.tryClaim_of_room hroom hdevice, ← lineClaimant_succ]
  rfl

theorem State.endClaim_of_refused {s : State} (h : 16 ≤ s.writer.holding.length ∨ s.hbi.device = .faulted) (n : LineId)
    (c : Completion) :
    s.endClaim n c =
      s.modLine n fun l => { l.leave with engine := .completeWait, claim := some c, job := none, cutting := false } := by
  rw [State.endClaim, State.tryClaim_of_refused h]

/-! ### Leaving the exchange (R35, R101) -/

theorem State.leaveExchange_of_none {s : State} {n : LineId} (h : (s.line n).exchange = none) : s.leaveExchange n = s := by
  rw [State.leaveExchange, h]

theorem State.leaveExchange_of_poll {s : State} {n : LineId} {x : Exchange} {k : SlotId} {id : PollId}
    (hexchange : (s.line n).exchange = some x) (hstation : x.station = some k) (horigin : x.origin = .poll id) :
    s.leaveExchange n = (s.modStation k fun st => { st with busy := false }).settlePoll id := by
  rw [State.leaveExchange, hexchange]
  simp only [hstation, horigin]

theorem State.leaveExchange_of_other {s : State} {n : LineId} {x : Exchange} {k : SlotId} (hexchange : (s.line n).exchange = some x)
    (hstation : x.station = some k) (horigin : ∀ id, x.origin ≠ .poll id) :
    s.leaveExchange n = s.modStation k fun st => { st with busy := false } := by
  rw [State.leaveExchange, hexchange]
  cases h : x.origin with
  | poll id => exact absurd h (horigin id)
  | _ => simp only [hstation, h]

/-- A broadcast has no station and no poll entry (R56). -/
theorem State.leaveExchange_of_broadcast {s : State} {n : LineId} {x : Exchange} (hexchange : (s.line n).exchange = some x)
    (hstation : x.station = none) (horigin : ∀ id, x.origin ≠ .poll id) : s.leaveExchange n = s := by
  rw [State.leaveExchange, hexchange]
  cases h : x.origin with
  | poll id => exact absurd h (horigin id)
  | _ => simp only [hstation, h]

theorem State.settlePoll_of_inFlight {s : State} {id : PollId} (h : (s.poll id).state = .inFlight) :
    s.settlePoll id = s.modPoll id fun p => { p with state := if p.dueAgain then .due else .idle, dueAgain := false } := by
  rw [State.settlePoll, h]

theorem State.settlePoll_of_deleting {s : State} {id : PollId} (h : (s.poll id).state = .deleting) : s.settlePoll id = s.freePoll id := by
  rw [State.settlePoll, h]

/-- The entry to IDLE up to the choice: the exchange is left, the engine holds nothing, a deferred command applies (log entry 26). -/
def State.idled (s : State) (n : LineId) : State := ((s.leaveExchange n).modLine n Line.idle).deferredApply

theorem State.enterIdle_eq (s : State) (n : LineId) :
    s.enterIdle n =
      if ((s.idled n).line n).stopping.isSome then (s.idled n).abortPrefetched n
      else if s.returnsDue n && (s.idled n).cycleStartComes n then s.idled n
      else (s.idled n).arbiterChoice n := rfl

theorem State.cycleStartComes_iff (s : State) (n : LineId) :
    s.cycleStartComes n = true ↔ (∃ rest, s.pending = .cycleStart n :: rest) ∧ ∃ p, (s.line n).cycleTimer = .running p := by
  rw [State.cycleStartComes]
  split
  · next k rest hpending =>
    rw [Bool.and_eq_true, beq_iff_eq, CycleTimer.isRunning_iff]
    refine and_congr_left fun _ => ⟨fun hk => ⟨rest, by rw [hpending, hk]⟩, fun ⟨rest', h⟩ => ?_⟩
    rw [hpending] at h
    injection h with h1
    injection h1
  · next hother =>
    exact iff_of_false Bool.false_ne_true fun ⟨⟨rest, h⟩, _⟩ => hother n rest h

theorem State.returnsDue_iff (s : State) (n : LineId) :
    s.returnsDue n = true ↔ ∃ x id, (s.line n).exchange = some x ∧ x.origin = .poll id ∧ (s.poll id).state = .inFlight ∧
      (s.poll id).dueAgain = true := by
  rw [State.returnsDue]
  cases hexchange : (s.line n).exchange with
  | none => simp
  | some x =>
    cases horigin : x.origin with
    | poll id => simp [horigin]
    | _ => simp [horigin]

/-! ### The exchange end assembled (R65, R111) -/

theorem State.requestCompletion_eq (s : State) (n : LineId) (r : Request) {x : Exchange} {status : Status}
    (h : x.status = some status) :
    s.requestCompletion n r x =
      { tag := r.tag, status := status, detail := x.detail, kind := .request, stationState := x.stationState
        origin := BitVec.ofNat 8 n.val, attempts := x.attemptsTotal, segments := x.segmentsDone, delivered := x.delivered
        residue := x.residue, stamp := (s.line n).counters.cycle.setWidth 16 } := by
  simp only [State.requestCompletion, h, Option.getD_some, byteOf, State.stampNow, stampOf_eq]

theorem State.deliverSlot_of_fault {s : State} {id : PollId} (h : (s.poll id).slotFault = true) (n : LineId) (x : Exchange) :
    s.deliverSlot n id x = s.pollReport n id x := if_pos h

theorem State.deliverSlot_of_noFault {s : State} {id : PollId} (h : (s.poll id).slotFault = false) (n : LineId) (x : Exchange) :
    s.deliverSlot n id x =
      (s.modPoll id fun p => { p with generation := p.generation + 1 }).modLine n fun l =>
        l.enterDeliver (.slotWrite .oddGeneration ((s.poll id).lineStatus x) ((s.poll id).slotData x) 0 0) :=
  if_neg (Bool.eq_false_iff.mp h)

/-- An engine that has left its state delivers a slot with nothing more to drop. -/
theorem Line.enterDeliver_of_left {l : Line} (h : l.leave = l) (job : MoverJob) :
    l.enterDeliver job = { l with engine := .deliver, job := some job } := by
  rw [Line.enterDeliver, h]

theorem Poll.lineStatus_of_none (p : Poll) {x : Exchange} {status : Status} (h : x.reply = none) (hstatus : x.status = some status) :
    p.lineStatus x = status := by
  rw [Poll.lineStatus, h, hstatus]
  rfl

theorem Poll.lineStatus_of_some (p : Poll) {x : Exchange} {payload : List Byte} (h : x.reply = some payload) :
    p.lineStatus x = if payload.length ≤ p.capacity then .ok else .truncated := by
  rw [Poll.lineStatus, h]

/-- Settles O55: step 1, then steps 2 and 3 by the exchange's origin, the offer, the claim, and the entry to IDLE. -/
theorem exchangeEndRunsItsSteps : Obligations.ExchangeEndRunsItsSteps := by
  refine ⟨fun s n x status detail hexchange => ?ends, fun s n k => ?offer,
    fun s n c => ⟨fun hroom hdevice => State.endClaim_of_room hroom hdevice n c, fun h => State.endClaim_of_refused h n c⟩,
    fun s n x k hexchange hstation => ?leave, fun s n => ⟨State.leaveExchange_of_none,
      fun x r hexchange hstation horigin => State.leaveExchange_of_broadcast hexchange hstation (by rw [horigin]; nofun), ?idle⟩⟩
  case ends =>
    intro code y a claim
    have hcode : s.stateAfterStep1 x status = code := by
      simp only [code, State.stateAfterStep1]
      cases x.station <;> rfl
    have hend : s.endExchange n status detail = (a.accountExchange y status).informBlocks n y := by
      rw [State.endExchange_eq hexchange, State.endedExchange, hcode]
      rfl
    have ha : (a.line n).counters.cycle = (s.line n).counters.cycle := by
      simp only [a, State.modLine_line_self]
    have hclaim (u : State) (r : Request) (hu : (u.line n).counters.cycle = (s.line n).counters.cycle) :
        u.requestCompletion n r y = claim r ((s.line n).counters.cycle.setWidth 16) := by
      rw [State.requestCompletion_eq u n r (x := y) rfl, hu]
    refine ⟨fun k hstation => ?station, fun r hstation horigin => ?broadcast⟩
    case broadcast =>
      rw [hend, State.accountExchange_of_none a (x := y) hstation, State.informBlocks_of_request a n (x := y) horigin,
        State.offerFor_of_none a n (x := y) hstation, hclaim a r ha]
    case station =>
      intro b o
      have hb : a.accountExchange y status = b := State.accountExchange_of_station a (x := y) hstation status
      have ho : b.offerFor n y = o := State.offerFor_of_station b n (x := y) hstation
      have hlines : b.lines = a.lines := (State.postNoticesFuel_frame _ _).1
      have hpolls : b.polls = s.polls := (State.postNoticesFuel_frame _ _).2
      have hcycle : (o.line n).counters.cycle = (s.line n).counters.cycle := by
        rw [((b.offerFetch_moves n k).sameClock n).cycle, State.line_congr hlines, ha]
      rw [hend, hb]
      refine ⟨fun r horigin => ?_, fun j horigin hsource => ?_, fun j horigin hsource => ?_, fun id horigin hfault => ?_,
        fun id horigin hfault => ?_⟩
      · rw [State.informBlocks_of_request b n (x := y) horigin, ho, hclaim o r hcycle]
      · rw [State.informBlocks_of_followUp b n (x := y) horigin, if_neg hsource, ho]
      · rw [State.informBlocks_of_followUp b n (x := y) horigin, if_pos hsource,
          State.offerFor_of_station _ n (x := y) hstation]
      · rw [State.informBlocks_of_poll b n (x := y) horigin, State.deliverSlot_of_fault]
        rw [State.poll_congr hpolls]
        exact hfault
      · intro fits
        have hleft : (b.line n).leave = b.line n := by
          rw [State.line_congr hlines]
          simp only [a, State.modLine_line_self]
          rfl
        refine ⟨(s.poll id).lineStatus y, ?_, fun hnone => Poll.lineStatus_of_none _ (x := y) hnone rfl, fun hsome hfits => ?_,
          fun hnot => ?_⟩
        · rw [State.informBlocks_of_poll b n (x := y) horigin,
            State.deliverSlot_of_noFault (by rw [State.poll_congr hpolls]; exact hfault), State.poll_congr hpolls]
          exact State.modLine_congr (Line.enterDeliver_of_left (l := b.line n) hleft _)
        · obtain ⟨payload, hpayload⟩ := Option.ne_none_iff_exists'.mp hsome
          rw [Poll.lineStatus_of_some _ (x := y) hpayload, if_pos (hfits payload hpayload)]
        · obtain ⟨payload, hpayload, hlong⟩ : ∃ payload, x.reply = some payload ∧ ¬payload.length ≤ (s.poll id).capacity := by
            simpa [fits] using hnot
          rw [Poll.lineStatus_of_some _ (x := y) hpayload, if_neg hlong]
  case offer =>
    intro l accepted
    have haccepted : s.offerAccepted n k = true ↔ accepted := s.offerAccepted_iff n k
    exact ⟨fun h => if_pos (haccepted.mpr h), fun h => if_neg (mt haccepted.mp h)⟩
  case leave =>
    intro t
    refine ⟨fun r horigin => State.leaveExchange_of_other hexchange hstation (by rw [horigin]; nofun),
      fun j horigin => State.leaveExchange_of_other hexchange hstation (by rw [horigin]; nofun),
      fun id horigin hstate => ?_, fun id horigin hstate => ?_⟩
    · rw [State.leaveExchange_of_poll hexchange hstation horigin]
      exact State.settlePoll_of_inFlight hstate
    · rw [State.leaveExchange_of_poll hexchange hstation horigin]
      exact State.settlePoll_of_deleting hstate
  case idle =>
    intro t lost
    have hidle : s.enterIdle n =
        if (t.line n).stopping.isSome then t.abortPrefetched n
        else if s.returnsDue n && t.cycleStartComes n then t else t.arbiterChoice n := s.enterIdle_eq n
    have hlost : (s.returnsDue n && t.cycleStartComes n) = true ↔ lost := by
      rw [Bool.and_eq_true, State.returnsDue_iff, State.cycleStartComes_iff]
    rw [hidle]
    refine ⟨fun hstopping => if_pos (Option.isSome_iff_ne_none.mpr hstopping), fun hgoing hyes => ?_, fun hgoing hno => ?_⟩
    · rw [hgoing, if_neg (by decide), if_pos (hlost.mpr hyes)]
    · rw [hgoing, if_neg (by decide), if_neg (mt hlost.mp hno)]

/-! ### The report of a POLL exchange (R104 to R106) -/

theorem Poll.finalStatus_eq (p : Poll) {x : Exchange} {status : Status} (h : x.status = some status) (cut : Bool) :
    p.finalStatus x cut =
      if cut then .aborted else match x.reply with
        | some payload => if payload.length ≤ p.capacity then .ok else .truncated
        | none => status := by
  rw [Poll.finalStatus, Poll.lineStatus, h]
  rfl

theorem Poll.reports_iff (p : Poll) (x : Exchange) (final : Status) :
    p.reports final x.signature = true ↔
      p.slotFault = true ∨ p.mode = .always ∨ (p.mode = .onError ∧ final ≠ .ok) ∨
        (p.mode = .onChange ∧
          (p.lastStatus ≠ some final ∨ ∃ payload, x.reply = some payload ∧ p.lastSignature ≠ some (crc16 payload))) := by
  have hsignature : (x.signature.isSome && p.lastSignature != x.signature) = true ↔
      ∃ payload, x.reply = some payload ∧ p.lastSignature ≠ some (crc16 payload) := by
    rw [Exchange.signature]
    cases x.reply <;> simp
  rw [Poll.reports, Bool.or_eq_true]
  refine or_congr_right ?_
  cases p.mode <;> simp [hsignature]

theorem Poll.afterReport_eq (p : Poll) (x : Exchange) (final : Status) :
    p.afterReport final x.signature =
      { p with
        lastStatus := some final
        lastSignature := match x.reply with
          | some payload => some (crc16 payload)
          | none => p.lastSignature } := by
  rw [Poll.afterReport, Exchange.signature]
  cases x.reply <;> rfl

/-- An offer leaves the poll entries and the cycle numbers alone (R111). -/
theorem State.offerFor_polls (s : State) (n : LineId) (x : Exchange) : (s.offerFor n x).polls = s.polls := by
  rw [State.offerFor]
  split
  · rw [State.offerFetch]
    split
    · exact (s.modCapture _).evaluatePause_frame.2.2.2.1
    · rfl
  · rfl

/-- The report of an entry whose settings are those it had before the decision (R106). -/
theorem State.pollCompletion_eq {s t : State} {n : LineId} {id : PollId} (hfault : (t.poll id).slotFault = (s.poll id).slotFault)
    (hcapacity : (t.poll id).capacity = (s.poll id).capacity) (hcycle : (t.line n).counters.cycle = (s.line n).counters.cycle)
    (x : Exchange) (cut : Bool) : t.pollCompletion n id x cut = s.pollCompletion n id x cut := by
  simp only [State.pollCompletion, Poll.finalStatus, Poll.lineStatus, State.stampNow, hfault, hcapacity, hcycle]

/-- Settles O56: the decision, and the report's fields with and without a slot fault. -/
theorem pollReportIsDecided : Obligations.PollReportIsDecided := by
  intro s n id x status hstatus p cut size final reported base t
  have hfinal : p.finalStatus x cut = final := p.finalStatus_eq hstatus cut
  have hreported : p.reports final x.signature = true ↔ reported := p.reports_iff x final
  have hbase : (s.modPoll id fun q => q.afterReport final x.signature) = base :=
    State.modPoll_congr (Poll.afterReport_eq _ x final)
  have ht : base.offerFor n x = t := by
    cases hstation : x.station <;> simp only [t, State.offerFor, hstation]
  have hreport : s.pollReport n id x =
      if p.reports final x.signature then t.endClaim n (t.pollCompletion n id x cut) else t.enterIdle n := by
    rw [← ht, ← hbase, ← hfinal]
    rfl
  have hpoll : t.poll id = { s.poll id with lastStatus := some final, lastSignature := (t.poll id).lastSignature } := by
    rw [← ht, State.poll_congr (State.offerFor_polls base n x)]
    simp only [base, State.modPoll_poll_self]
  have hcycle : (t.line n).counters.cycle = (s.line n).counters.cycle := by
    rw [← ht]
    exact ((base.offerFor_moves n x).sameClock n).cycle
  have hcompletion : t.pollCompletion n id x cut = s.pollCompletion n id x cut :=
    State.pollCompletion_eq (by rw [hpoll]) (by rw [hpoll]) hcycle x cut
  refine ⟨fun hno => hreport.trans (if_neg (mt hreported.mp hno)), fun hyes => ?_⟩
  refine ⟨s.pollCompletion n id x cut, ?_, rfl, rfl, rfl, rfl, rfl, ?_, rfl, fun hfault => ?_, fun hfault => ?_⟩
  · rw [hreport, if_pos (hreported.mpr hyes), hcompletion]
  · exact stampOf_eq _
  · have hslot : (s.poll id).slotFault = true := hfault
    simp only [State.pollCompletion, hslot, if_true, hstatus, Option.getD_some]
    trivial
  · have hslot : (s.poll id).slotFault = false := hfault
    simp only [State.pollCompletion, hslot, Bool.false_eq_true, if_false]
    exact ⟨hfinal, rfl, rfl, rfl⟩

end Sys2Proof.Machine
end

section
/-! PROOFS. The dispatch of chosen work: the checks of R78, R79, R99, R100 and R123, what an exchange begins with (R44, R45) and its first frame
(R21, R51). -/

namespace Sys2Proof.Machine

/-! ### What an exchange begins with and what its frames carry (R44, R45, R60) -/

theorem Exchange.readNeeded_of_bulkWrite {x : Exchange} {address : Word} {length : Nat} (hpayload : x.payload = .host address length)
    (hbulk : x.bulkWrite = true) :
    x.readNeeded =
      if length ≤ 64 * x.segmentsDone then none
      else some (address + BitVec.ofNat 32 (64 * x.segmentsDone), min 64 (length - 64 * x.segmentsDone)) := by
  simp only [Exchange.readNeeded, hpayload, hbulk, if_true, Config.segmentBytes]
  by_cases h : length ≤ 64 * x.segmentsDone
  · rw [if_pos h, if_pos (by omega)]
  · rw [if_neg h, if_neg (by omega)]

theorem Exchange.readNeeded_of_whole {x : Exchange} {address : Word} {length : Nat} (hpayload : x.payload = .host address length)
    (hbulk : x.bulkWrite = false) :
    x.readNeeded = if 0 < length ∧ x.segmentsDone = 0 then some (address, length) else none := by
  simp only [Exchange.readNeeded, hpayload, hbulk, Bool.false_eq_true, if_false]
  by_cases hfirst : x.segmentsDone = 0
  · rw [if_pos hfirst, Nat.sub_zero]
    by_cases hlength : length = 0
    · rw [if_pos hlength, if_neg (by omega)]
    · rw [if_neg hlength, if_pos (by omega)]
      simp
  · rw [if_neg hfirst, if_pos (Nat.sub_self _), if_neg fun h => hfirst h.2]

theorem State.takeBroadcast_eq (s : State) (n : LineId) (r : Request) :
    s.takeBroadcast n r = (s.modLine n fun l => { l with exchange := some (r.exchange .broadcast) }).prepareRequest n := by
  have hexchange : ((s.modLine n fun l => { l with exchange := some (r.exchange .broadcast) }).line n).exchange =
      some (r.exchange .broadcast) := by rw [State.modLine_line_self]
  rw [State.takeBroadcast, State.prepareFirst, hexchange]
  rfl

theorem State.prepareRequest_of_read {s : State} {n : LineId} {x : Exchange} {address : Word} {length : Nat}
    (h : (s.line n).exchange = some x) (hread : x.readNeeded = some (address, length)) :
    s.prepareRequest n = s.modLine n fun l => l.enterDeliver (.payloadRead address length []) := by
  simp only [State.prepareRequest, h, hread]

theorem State.prepareRequest_of_held {s : State} {n : LineId} {x : Exchange} (h : (s.line n).exchange = some x)
    (hread : x.readNeeded = none) : s.prepareRequest n = s.sendFrame n (s.requestFrame x x.heldPayload) := by
  simp only [State.prepareRequest, h, hread]

theorem State.takeBound_eq (s : State) (n : LineId) (x : Exchange) (k : SlotId) :
    s.takeBound n x k =
      let t := (s.modLine n fun l => { l with exchange := some (x.bind k (s.station k)) }).modStation k fun st => { st with busy := true }
      if x.source = .probe ∨ (s.station k).resync = true then t.sendFrame n syncFrame else t.prepareRequest n := by
  have hexchange : (((s.modLine n fun l => { l with exchange := some (x.bind k (s.station k)) }).modStation k fun st =>
      { st with busy := true }).line n).exchange = some (x.bind k (s.station k)) := by
    rw [State.line_congr (State.modStation_lines _ _ _), State.modLine_line_self]
  have hsync : ((s.modLine n fun l => { l with exchange := some (x.bind k (s.station k)) }).modStation k fun st =>
      { st with busy := true }).beginsWithSync (x.bind k (s.station k)) = true ↔ x.source = .probe ∨ (s.station k).resync = true := by
    rw [State.beginsWithSync]
    simp only [Exchange.bind, State.modStation_station_self, Bool.or_eq_true, beq_iff_eq]
    rfl
  rw [State.takeBound, State.prepareFirst, hexchange]
  dsimp only
  by_cases h : x.source = .probe ∨ (s.station k).resync = true
  · rw [if_pos h, if_pos (hsync.mpr h)]
  · rw [if_neg h, if_neg (mt hsync.mp h)]

/-! ### The dispatch checks (R78, R99, R116) -/

/-- The one station of a line with an address is the one found (R69, R78). -/
theorem State.lookup_of_unique {s : State} {n : LineId} {address : BitVec 7} {k : SlotId}
    (hk : (s.station k).state ≠ .absent ∧ (s.station k).line = n ∧ (s.station k).address = address)
    (hunique : ∀ j, (s.station j).state ≠ .absent ∧ (s.station j).line = n ∧ (s.station j).address = address → j = k) :
    s.lookup n address = some k := by
  have hfound : (s.lookup n address).isSome = true := (s.lookup_isSome_iff n address).mpr ⟨k, hk⟩
  obtain ⟨j, hj⟩ := Option.isSome_iff_exists.mp hfound
  have hhere := List.find?_some hj
  simp only [Bool.and_eq_true, bne_iff_ne, beq_iff_eq, and_assoc] at hhere
  rw [hj, hunique j hhere]

theorem State.lookup_of_none {s : State} {n : LineId} {address : BitVec 7}
    (h : ∀ k, ¬((s.station k).state ≠ .absent ∧ (s.station k).line = n ∧ (s.station k).address = address)) :
    s.lookup n address = none := by
  rw [← Option.not_isSome_iff_eq_none, s.lookup_isSome_iff]
  exact fun ⟨k, hk⟩ => h k hk

theorem State.checkCompletion_eq (s : State) (n : LineId) (r : Request) (status : Status) (found : Option SlotId) :
    s.checkCompletion n r status found =
      { tag := r.tag, status := status, detail := 0, kind := .request, stationState := s.stationStateCode found
        origin := BitVec.ofNat 8 n.val, attempts := 0, segments := 0, delivered := 0, residue := 0
        stamp := (s.line n).counters.cycle.setWidth 16 } := by
  rw [State.checkCompletion, State.stampNow, stampOf_eq, byteOf]

section

variable {s : State} {n : LineId} {r : Request} {k : SlotId}

theorem State.dispatchRequest_of_broadcast (s : State) (n : LineId) (h : r.broadcast = true) :
    s.dispatchRequest n r = (s.modLine n fun l => l.shareAfterRequest r).takeBroadcast n r := if_pos h

theorem State.dispatchRequest_of_unknown (h : r.broadcast = false) (hlookup : s.lookup n r.address = none) :
    s.dispatchRequest n r = s.claimOrWait n (s.checkCompletion n r .noStation none) := by
  simp only [State.dispatchRequest, h, hlookup, Bool.false_eq_true, if_false]

theorem State.dispatchRequest_of_held (h : r.broadcast = false) (hlookup : s.lookup n r.address = some k)
    (hstate : (s.station k).state = .held) :
    s.dispatchRequest n r = s.claimOrWait n (s.checkCompletion n r .stationHeld (some k)) := by
  simp only [State.dispatchRequest, h, hlookup, hstate, Bool.false_eq_true, if_false]

theorem State.dispatchRequest_of_offline (h : r.broadcast = false) (hlookup : s.lookup n r.address = some k)
    (hstate : (s.station k).state = .offline) (hforce : r.force = false) :
    s.dispatchRequest n r = s.claimOrWait n (s.checkCompletion n r .stationOffline (some k)) := by
  simp only [State.dispatchRequest, h, hlookup, hstate, hforce, Bool.false_eq_true, if_false]

theorem State.dispatchRequest_of_passes (h : r.broadcast = false) (hlookup : s.lookup n r.address = some k)
    (hstate : ((s.station k).state = .offline ∧ r.force = true) ∨ (s.station k).state = .probing ∨ (s.station k).state = .online ∨
      (s.station k).state = .suspect) :
    s.dispatchRequest n r = (s.modLine n fun l => l.shareAfterRequest r).takeBound n (r.exchange .request) k := by
  obtain ⟨hstate, hforce⟩ | hstate | hstate | hstate := hstate
  case inl => simp only [State.dispatchRequest, h, hlookup, hstate, hforce, Bool.false_eq_true, if_false, if_true]
  all_goals simp only [State.dispatchRequest, h, hlookup, hstate, Bool.false_eq_true, if_false]

end

theorem Line.shareAfterRequest_eq (l : Line) (r : Request) :
    l.shareAfterRequest r = { l with share := if r.urgent then l.share else 0 } := by
  rw [Line.shareAfterRequest]
  cases r.urgent <;> rfl

theorem StationState.pollable_iff (state : StationState) :
    state.pollable = true ↔ state = .probing ∨ state = .online ∨ state = .suspect := by
  cases state <;> decide

theorem State.dispatchFollowUp_of_passes {s : State} {f : FollowUp} {n : LineId}
    (h : (f.kind = .probe ∧ (s.station f.slot).state = .offline) ∨
      (f.kind = .eventFetch ∧ (s.station f.slot).state.pollable = true ∧ s.capture.passesDispatch n = true)) :
    s.dispatchFollowUp n f = s.takeBound n f.exchange f.slot := by
  refine if_pos ?_
  obtain ⟨hkind, hstate⟩ | ⟨hkind, hstate, hcapture⟩ := h
  · rw [hkind, hstate]
    rfl
  · rw [hkind]
    exact Bool.and_eq_true_iff.mpr ⟨hstate, hcapture⟩

theorem State.dispatchFollowUp_of_dropped {s : State} {f : FollowUp} {n : LineId}
    (h : ¬((f.kind = .probe ∧ (s.station f.slot).state = .offline) ∨
      (f.kind = .eventFetch ∧ (s.station f.slot).state.pollable = true ∧ s.capture.passesDispatch n = true))) :
    s.dispatchFollowUp n f = (s.returnFor f).deferredApply := by
  refine if_neg fun hpass => h ?_
  cases hkind : f.kind with
  | probe =>
    rw [hkind] at hpass
    exact .inl ⟨rfl, beq_iff_eq.mp hpass⟩
  | eventFetch =>
    rw [hkind] at hpass
    exact .inr ⟨rfl, Bool.and_eq_true_iff.mp hpass⟩

theorem Capture.passesDispatch_iff (c : Capture) (n : LineId) :
    c.passesDispatch n = true ↔ c.config ≠ none ∧ c.fault = false ∧ c.reconfig = false ∧ c.staging[n] = none := by
  simp only [Capture.passesDispatch, Bool.and_eq_true, Option.isSome_iff_ne_none, Bool.not_eq_true', Option.isNone_iff_eq_none,
    and_assoc]

/-- A DUE entry whose station does not pass is skipped and counted (R100). -/
theorem State.dispatchPoll_of_skipped {s : State} {id : PollId}
    (h : (s.station (s.poll id).station).state = .held ∨ (s.station (s.poll id).station).state = .offline) (n : LineId) :
    s.dispatchPoll n id =
      let t := s.modPoll id fun q => { q with state := .idle, skipped := satSucc Config.counterMax q.skipped }
      if (s.poll id).mode = .always then
        t.claimOrWait n (t.skipReport n id
          (if (s.station (s.poll id).station).state = .offline then .stationOffline else .stationHeld))
      else t := by
  refine if_neg ?_
  obtain h | h := h <;> rw [h] <;> decide

theorem State.skipReport_eq {t : State} {n : LineId} {id : PollId} {state : StationState} {skipped : Nat} {cycle : Word}
    (hstate : (t.station (t.poll id).station).state = state) (hskipped : (t.poll id).skipped = skipped)
    (hcycle : (t.line n).counters.cycle = cycle) (status : Status) :
    t.skipReport n id status =
      { tag := BitVec.ofNat 32 id.val, status := status, detail := BitVec.ofNat 8 (min skipped 255), kind := .poll
        stationState := state.code, origin := BitVec.ofNat 8 id.val, attempts := 0, segments := 0, delivered := 0, residue := 0
        stamp := cycle.setWidth 16 } := by
  have hcode : t.stationStateCode (some (t.poll id).station) = state.code := congrArg StationState.code hstate
  rw [State.skipReport, hcode, State.stampNow, stampOf_eq, hcycle, skippedDetail, hskipped, byteOf, byteOf]

/-- Settles O60: exchanges and frames, then the dispatch of each kind of work. -/
theorem dispatchChecksTheStation : Obligations.DispatchChecksTheStation := by
  refine ⟨⟨fun r source => ⟨rfl, rfl, rfl⟩, fun p id => rfl, fun f => ⟨fun h => ?probe, fun h => ?fetch⟩⟩,
    fun s n r => s.takeBroadcast_eq n r,
    fun s x payload => ⟨fun r horigin => ?request, fun hother => ?other, fun address length hpayload => ?host,
      fun bytes hpayload => ?held, fun hpayload => ?nothing, fun k hk => ?toggle, fun hk => ?noToggle, rfl⟩,
    fun s n r => ?dispatchRequest, fun s n id => ?dispatchPoll, fun s n f => ?dispatchFollowUp, fun s n c => ⟨fun hroom hdevice => ?claim,
      fun h => State.claimOrWait_of_refused h n c⟩, fun s n x k => ?bound⟩
  case probe =>
    rw [FollowUp.exchange, h]
    rfl
  case fetch =>
    rw [FollowUp.exchange, h]
    rfl
  case request =>
    have hread : x.bulkRead = r.bulkRead := by rw [Exchange.bulkRead, horigin]
    have hwrite : x.bulkWrite = r.bulkWrite := by rw [Exchange.bulkWrite, horigin]
    have hlength : x.payloadLength = r.payloadLength := by rw [Exchange.payloadLength, horigin]
    refine ⟨hread, hwrite, fun h => ?_, fun h => ?_⟩
    · rw [Exchange.more, hwrite, h, hlength]
      rfl
    · rw [Exchange.more, hwrite, h, hread]
      rfl
  case other =>
    have hread : x.bulkRead = false := by
      rw [Exchange.bulkRead]
      split
      · next r h => exact absurd h (hother r)
      all_goals rfl
    have hwrite : x.bulkWrite = false := by
      rw [Exchange.bulkWrite]
      split
      · next r h => exact absurd h (hother r)
      all_goals rfl
    exact ⟨hread, hwrite, by rw [Exchange.more, hread, hwrite]; rfl⟩
  case host =>
    exact ⟨by rw [Exchange.heldPayload, hpayload], Exchange.readNeeded_of_bulkWrite hpayload, Exchange.readNeeded_of_whole hpayload⟩
  case held =>
    obtain h | h := hpayload
    all_goals exact ⟨by rw [Exchange.readNeeded, h], by rw [Exchange.heldPayload, h]⟩
  case nothing => exact ⟨by rw [Exchange.readNeeded, hpayload], by rw [Exchange.heldPayload, hpayload]⟩
  case toggle => rw [State.requestToggle, hk]
  case noToggle => rw [State.requestToggle, hk]
  case dispatchRequest =>
    intro l t pass done here run
    have hline : (t.line n).counters.cycle = l.counters.cycle := by simp only [t, State.modLine_line_self]; rfl
    have hcheck (status : Status) (found : Option SlotId) :
        t.claimOrWait n (t.checkCompletion n r status found) = done status (t.stationStateCode found) := by
      rw [State.checkCompletion_eq, hline]
    have hpass : (t.modLine n fun l => l.shareAfterRequest r) = pass := State.modLine_congr (Line.shareAfterRequest_eq _ r)
    have hrun : run = t.dispatchRequest n r := rfl
    refine ⟨fun hb => ?broadcast, fun hb => ⟨fun hnone => ?noStation, fun k hk hunique => ?here⟩⟩
    case broadcast => rw [hrun, State.dispatchRequest_of_broadcast t n hb, hpass]
    case noStation =>
      rw [hrun, State.dispatchRequest_of_unknown hb (State.lookup_of_none (s := t) hnone)]
      exact hcheck .noStation none
    case here =>
      have hlookup : t.lookup n r.address = some k := State.lookup_of_unique (s := t) hk hunique
      have hcode (state : StationState) (hstate : (s.station k).state = state) : t.stationStateCode (some k) = state.code :=
        congrArg StationState.code hstate
      refine ⟨fun hstate => ?_, fun hstate hforce => ?_, fun hany => ?_⟩
      · rw [hrun, State.dispatchRequest_of_held hb hlookup hstate, hcheck, hcode _ hstate]
        rfl
      · rw [hrun, State.dispatchRequest_of_offline hb hlookup hstate hforce, hcheck, hcode _ hstate]
        rfl
      · rw [hrun, State.dispatchRequest_of_passes hb hlookup hany, hpass]
  case dispatchPoll =>
    intro p state run
    refine ⟨fun h => if_pos ((StationState.pollable_iff _).mpr h), fun h => ?_⟩
    intro skipped t
    have hrun := State.dispatchPoll_of_skipped (s := s) (id := id) h n
    refine ⟨fun hmode => hrun.trans (if_neg hmode), fun hmode => hrun.trans ((if_pos hmode).trans ?_)⟩
    have hpoll : t.poll id = { p with state := .idle, skipped := skipped } := State.modPoll_poll_self ..
    have hstation : (t.station (t.poll id).station).state = state := by rw [hpoll]; rfl
    have hskipped : (t.poll id).skipped = skipped := by rw [hpoll]
    have hstatus : (if state = .offline then Status.stationOffline else .stationHeld) =
        if state = .held then .stationHeld else .stationOffline := by
      obtain h | h := h <;> rw [show state = _ from h] <;> rfl
    exact congrArg (t.claimOrWait n) ((State.skipReport_eq hstation hskipped rfl _).trans (by rw [hstatus]; rfl))
  case dispatchFollowUp =>
    intro state t passes
    have hpasses : passes ↔ (f.kind = .probe ∧ (t.station f.slot).state = .offline) ∨
        (f.kind = .eventFetch ∧ (t.station f.slot).state.pollable = true ∧ t.capture.passesDispatch n = true) := by
      rw [StationState.pollable_iff, Capture.passesDispatch_iff]
      exact Iff.rfl
    refine ⟨fun h => State.dispatchFollowUp_of_passes (hpasses.mp h), fun h => ⟨fun hkind => ?_, fun hkind => ?_⟩⟩
    all_goals
      refine (State.dispatchFollowUp_of_dropped (mt hpasses.mpr h)).trans ?_
      rw [State.returnFor, hkind]
  case claim =>
    rw [State.claimOrWait_of_room hroom hdevice, ← lineClaimant_succ]
    rfl
  case bound =>
    intro st y t
    have hbound := s.takeBound_eq n x k
    refine ⟨fun h => hbound.trans (if_pos h), fun hsource hresync => hbound.trans (if_neg ?_), fun u z hexchange =>
      ⟨fun address length hread => State.prepareRequest_of_read hexchange hread, State.prepareRequest_of_held hexchange, fun f => rfl⟩⟩
    rintro (h | h)
    · exact hsource h
    · exact Bool.false_ne_true (hresync.symm.trans h)

end Sys2Proof.Machine
end

section
/-! PROOFS. The cycle start of a line: its entries settled in two passes, the reports they offer, and the marks they bear after it (R96 to R98). -/

namespace Sys2Proof.Machine

/-! ### The entries of a line at its cycle start (R96 to R98) -/

/-- Entries ids have been settled: each as upd makes it, the reports offered have joined the holding queue while it had room, and nothing
else has changed. -/
structure State.Settles (ids : List PollId) (upd : Poll → Poll) (reports : List Completion) (s t : State) : Prop where
  frame : t = { s with
    polls := t.polls
    writer := { s.writer with holding := s.writer.holding ++ reports.take (16 - s.writer.holding.length) } }
  poll : ∀ j, t.poll j = if j ∈ ids then upd (s.poll j) else s.poll j

/-- Reports offered in turn fill the room that is left. -/
theorem offered_append {α : Type} (held first second : List α) (room : Nat) :
    (held ++ first.take (room - held.length)) ++ second.take (room - (held ++ first.take (room - held.length)).length) =
      held ++ (first ++ second).take (room - held.length) := by
  rw [List.append_assoc, List.take_append, List.length_append, List.length_take]
  congr 3
  omega

namespace State.Settles

variable {s t u : State} {upd : Poll → Poll} {ids : List PollId} {id : PollId} {first second : List Completion}

theorem refl (s : State) : State.Settles [] upd [] s s := by
  refine ⟨?_, fun j => rfl⟩
  rw [List.take_nil, List.append_nil]

/-- A frame follows a frame. -/
theorem frame_trans (h : State.Settles ids upd first s t) {v : State} {ids' : List PollId} {upd' : Poll → Poll}
    (k : State.Settles ids' upd' second t v) :
    v = { s with
      polls := v.polls
      writer := { s.writer with holding := s.writer.holding ++ (first ++ second).take (16 - s.writer.holding.length) } } := by
  have e := k.frame
  rw [h.frame] at e
  rw [← offered_append]
  exact e

theorem cons (hid : id ∉ ids) (h : State.Settles [id] upd first s t) (k : State.Settles ids upd second t u) :
    State.Settles (id :: ids) upd (first ++ second) s u := by
  refine ⟨h.frame_trans k, fun j => ?_⟩
  rw [k.poll, h.poll]
  by_cases hj : j = id
  · subst hj
    rw [if_neg hid, if_pos (List.mem_singleton.mpr rfl), if_pos List.mem_cons_self]
  · rw [if_neg (mt List.mem_singleton.mp hj)]
    simp [hj]

end State.Settles

/-- The OVERRUN report of an entry at a cycle start, when its mode asks for one (R96 to R98). -/
def State.overrunReports (s : State) (n : LineId) (id : PollId) : List Completion :=
  if (s.poll id).reportsOverrun then
    [{ tag := BitVec.ofNat 32 id.val, status := .overrun
       detail := BitVec.ofNat 8 (min (satSucc Config.counterMax (s.poll id).skipped) 255), kind := .poll
       stationState := (s.station (s.poll id).station).state.code, origin := BitVec.ofNat 8 id.val
       attempts := 0, segments := 0, delivered := 0, residue := 0, stamp := (s.line n).counters.cycle.setWidth 16 }]
  else []

/-- An overrun at an entry. -/
def Poll.overrun (p : Poll) (state : PollState) : Poll := { p with state := state, skipped := satSucc Config.counterMax p.skipped }

theorem State.placeReport_eq {s : State} (hdevice : s.hbi.device ≠ .faulted) (c : Completion) :
    s.placeReport c = s.modWriter fun w => { w with holding := w.holding ++ [c].take (16 - w.holding.length) } := by
  rw [State.placeReport]
  by_cases hroom : s.writer.holding.length < 16
  · have htake : [c].take (16 - s.writer.holding.length) = [c] := List.take_of_length_le (by simp; omega)
    rw [if_pos ((s.mayGrant_iff).mpr ⟨hroom, hdevice⟩)]
    exact congrArg (fun l => s.modWriter fun w => { w with holding := s.writer.holding ++ l }) htake.symm
  · have htake : [c].take (16 - s.writer.holding.length) = [] := by
      rw [Nat.sub_eq_zero_of_le (Nat.not_lt.mp hroom), List.take_zero]
    rw [State.mayGrant_eq_false (.inl (Nat.not_lt.mp hroom)), if_neg Bool.false_ne_true]
    exact (congrArg (fun l => s.modWriter fun w => { w with holding := l })
      (by rw [htake, List.append_nil] : s.writer.holding ++ [c].take (16 - s.writer.holding.length) = s.writer.holding)).symm

theorem State.overrun_settles {s : State} (hdevice : s.hbi.device ≠ .faulted) (n : LineId) (id : PollId) (state : PollState) :
    State.Settles [id] (fun p => p.overrun state) (s.overrunReports n id) s (s.overrun n id state) := by
  have hpoll : ∀ j, (s.modPoll id fun p => p.overrun state).poll j =
      if j ∈ [id] then (s.poll j).overrun state else s.poll j := fun j => by
    rw [State.modPoll_poll]
    simp [eq_comm]
  have hself : (s.modPoll id fun p => p.overrun state).poll id = (s.poll id).overrun state := State.modPoll_poll_self ..
  by_cases hreports : (s.poll id).reportsOverrun = true
  · have hreport : (s.modPoll id fun p => p.overrun state).skipReport n id .overrun = _ :=
      State.skipReport_eq (state := (s.station (s.poll id).station).state) (by rw [hself]; rfl) (congrArg Poll.skipped hself) rfl _
    have hstep : s.overrun n id state = (s.modPoll id fun p => p.overrun state).placeReport
        ((s.modPoll id fun p => p.overrun state).skipReport n id .overrun) := if_pos hreports
    rw [State.overrunReports, if_pos hreports, hstep, State.placeReport_eq (s := s.modPoll id fun p => p.overrun state) hdevice,
      hreport]
    exact ⟨rfl, hpoll⟩
  · have hstep : s.overrun n id state = s.modPoll id fun p => p.overrun state := if_neg hreports
    rw [State.overrunReports, if_neg hreports, hstep]
    refine ⟨?_, hpoll⟩
    rw [List.take_nil, List.append_nil]
    rfl

/-- An entry whose step does nothing is settled as it was. -/
theorem State.settles_self {s : State} {upd : Poll → Poll} {id : PollId} (h : upd (s.poll id) = s.poll id) :
    State.Settles [id] upd [] s s := by
  refine ⟨?_, fun j => ?_⟩
  · rw [List.take_nil, List.append_nil]
  · split
    · next hj => rw [List.mem_singleton.mp hj, h]
    · rfl

/-- An entry whose step changes it without a report. -/
theorem State.settles_modPoll (s : State) (id : PollId) {f upd : Poll → Poll} (h : upd (s.poll id) = f (s.poll id)) :
    State.Settles [id] upd [] s (s.modPoll id f) := by
  refine ⟨?_, fun j => ?_⟩
  · rw [List.take_nil, List.append_nil]
    rfl
  · rw [State.modPoll_poll]
    by_cases hj : id = j
    · subst hj
      rw [if_pos rfl, if_pos (List.mem_singleton.mpr rfl), h]
    · rw [if_neg hj, if_neg fun k => hj (List.mem_singleton.mp k).symm]

theorem State.Settles.congr {ids : List PollId} {upd upd' : Poll → Poll} {reports : List Completion} {s t : State}
    (h : State.Settles ids upd reports s t) (hupd : ∀ j ∈ ids, upd' (s.poll j) = upd (s.poll j)) :
    State.Settles ids upd' reports s t := by
  refine ⟨h.frame, fun j => ?_⟩
  rw [h.poll]
  split
  · next hj => rw [hupd j hj]
  · rfl

/-- A DUE entry is cleared at the cycle start (R96). -/
def Poll.cleared (p : Poll) : Poll := if p.state = .due then p.overrun .idle else p

/-- An entry meets the marking step of a cycle (R97). -/
def Poll.marked (cycle : Word) (p : Poll) : Poll :=
  if p.dueIn cycle then
    match p.state with
    | .idle => { p with state := .due }
    | .inFlight => if p.dueAgain then p.overrun .inFlight else { p with dueAgain := true }
    | .free | .due | .deleting => p
  else p

theorem State.clearOverrun_settles {s : State} (hdevice : s.hbi.device ≠ .faulted) (n : LineId) (id : PollId) :
    State.Settles [id] Poll.cleared (if (s.poll id).state = .due then s.overrunReports n id else []) s (State.clearOverrun n s id) := by
  rw [State.clearOverrun]
  by_cases h : (s.poll id).state = .due
  · rw [if_pos h, if_pos h]
    refine (s.overrun_settles hdevice n id .idle).congr fun j hj => ?_
    rw [List.mem_singleton.mp hj]
    exact if_pos h
  · rw [if_neg h, if_neg h]
    exact State.settles_self (if_neg h)

theorem State.markEntry_settles {s : State} (hdevice : s.hbi.device ≠ .faulted) (n : LineId) (id : PollId) :
    State.Settles [id] (Poll.marked (s.line n).counters.cycle)
      (if (s.poll id).losesPoll (s.line n).counters.cycle then s.overrunReports n id else []) s (State.markEntry n s id) := by
  rw [State.markEntry]
  by_cases hdue : (s.poll id).dueIn (s.line n).counters.cycle = true
  · rw [if_pos hdue, Poll.losesPoll, hdue, Bool.and_true]
    cases hstate : (s.poll id).state with
    | inFlight =>
      cases hagain : (s.poll id).dueAgain with
      | true =>
        refine (s.overrun_settles hdevice n id .inFlight).congr fun j hj => ?_
        rw [List.mem_singleton.mp hj]
        simp only [Poll.marked, hdue, hstate, hagain, if_true]
      | false =>
        refine s.settles_modPoll id (f := fun q => { q with dueAgain := true }) ?_
        simp only [Poll.marked, hdue, hstate, hagain, if_true]
        rfl
    | idle =>
      refine s.settles_modPoll id ?_
      simp only [Poll.marked, hdue, hstate, if_true]
    | _ =>
      refine State.settles_self ?_
      simp only [Poll.marked, hdue, hstate, if_true]
  · rw [if_neg hdue, Poll.losesPoll, Bool.eq_false_iff.mpr hdue, Bool.and_false]
    exact State.settles_self (if_neg hdue)

/-- The reports of an entry read only the entry, the stations and the cycle number. -/
theorem State.overrunReports_congr {s t : State} {n : LineId} {id : PollId} (hpoll : t.poll id = s.poll id)
    (hstations : t.stations = s.stations) (hlines : t.lines = s.lines) : t.overrunReports n id = s.overrunReports n id := by
  rw [State.overrunReports, State.overrunReports, hpoll, State.station_congr hstations, State.line_congr hlines]

/-- A step over the entries of a list settles them all, each with the reports it has when the list is begun. -/
theorem State.foldl_settles {n : LineId} {cycle : Word} {step : State → PollId → State} {upd : Poll → Poll}
    {loses : Poll → Prop} [DecidablePred loses]
    (hstep : ∀ (s : State) (id : PollId), s.hbi.device ≠ .faulted → (s.line n).counters.cycle = cycle →
      State.Settles [id] upd (if loses (s.poll id) then s.overrunReports n id else []) s (step s id))
    {ids : List PollId} (hids : ids.Nodup) (s : State) (hdevice : s.hbi.device ≠ .faulted)
    (hcycle : (s.line n).counters.cycle = cycle) :
    State.Settles ids upd (ids.flatMap fun id => if loses (s.poll id) then s.overrunReports n id else []) s (ids.foldl step s) := by
  induction ids generalizing s with
  | nil => exact .refl s
  | cons id ids ih =>
    have ⟨hid, hrest⟩ := List.nodup_cons.mp hids
    have hfirst := hstep s id hdevice hcycle
    have hlines : (step s id).lines = s.lines := (congrArg State.lines hfirst.frame :)
    have hstations : (step s id).stations = s.stations := (congrArg State.stations hfirst.frame :)
    have hhbi : (step s id).hbi = s.hbi := (congrArg State.hbi hfirst.frame :)
    have hlater := ih hrest (step s id) (by rw [hhbi]; exact hdevice) (by rw [State.line_congr hlines]; exact hcycle)
    have hsame : (ids.flatMap fun j => if loses ((step s id).poll j) then (step s id).overrunReports n j else []) =
        ids.flatMap fun j => if loses (s.poll j) then s.overrunReports n j else [] := by
      refine List.flatMap_congr fun j hj => ?_
      have hpoll : (step s id).poll j = s.poll j := by
        have hne : j ≠ id := fun e => hid (e ▸ hj)
        rw [hfirst.poll, if_neg (mt List.mem_singleton.mp hne)]
      rw [hpoll, State.overrunReports_congr hpoll hstations hlines]
    rw [hsame] at hlater
    exact hfirst.cons hid hlater

/-! ### The cycle start of a line, settled (R96, R97) -/

/-- A cleared entry meets the marking step as the table of R97 has it for the entry as it stood. -/
theorem Poll.marked_cleared (p : Poll) (cycle : Word) :
    p.cleared.marked cycle =
      { p with
        state := match p.state with
          | .idle | .due => if p.dueIn cycle then .due else .idle
          | other => other
        skipped := if (decide (p.state = .due) || p.losesPoll cycle) = true then satSucc Config.counterMax p.skipped else p.skipped
        dueAgain := p.dueAgain || (decide (p.state = .inFlight) && p.dueIn cycle) } := by
  obtain ⟨state, line, station, function, template, slotAddress, capacity, divisor, phase, mode, lastStatus, lastSignature, generation,
    slotFault, skipped, dueAgain⟩ := p
  have hdue (q : Poll) : q.dueIn cycle = (cycle.toNat % q.divisor == q.phase) := rfl
  simp only [Poll.cleared, Poll.marked, Poll.losesPoll, Poll.overrun, hdue]
  generalize hd : (cycle.toNat % divisor == phase) = d
  cases state <;> cases d <;> cases dueAgain <;> simp [hd]

theorem Poll.losesPoll_cleared (p : Poll) (cycle : Word) : p.cleared.losesPoll cycle = p.losesPoll cycle := by
  rw [Poll.cleared]
  split
  · next h =>
    simp only [Poll.losesPoll, Poll.overrun, h]
    rfl
  · rfl

/-- The reports of the entries that lose their poll, in list order, of those whose mode asks for one. -/
theorem flatMap_reports {α β : Type} (l : List α) (p q : α → Bool) (f : α → β) :
    (l.flatMap fun a => if p a = true then (if q a = true then [f a] else []) else []) = ((l.filter p).filter q).map f := by
  induction l with
  | nil => rfl
  | cons a l ih =>
    rw [List.flatMap_cons, ih, List.filter_cons]
    cases hp : p a with
    | false => rfl
    | true =>
      simp only [if_true, List.filter_cons]
      cases hq : q a <;> rfl

theorem State.overrunFound_iff (s : State) (n : LineId) :
    s.overrunFound n = true ↔
      ∃ id ∈ (s.line n).pollList, (s.poll id).state = .due ∨ (s.poll id).losesPoll (s.line n).counters.cycle = true := by
  simp only [State.overrunFound, List.any_eq_true, Bool.or_eq_true, beq_iff_eq]

/-- The entries of a line at its cycle start: those left DUE lose their poll first, then those in flight with due-again set (R96, R97). -/
theorem State.settled_entries {s : State} {n : LineId} (hids : (s.line n).pollList.Nodup) (hdevice : s.hbi.device ≠ .faulted) :
    State.Settles (s.line n).pollList (fun p => p.cleared.marked (s.line n).counters.cycle)
      (((s.line n).pollList.flatMap fun id => if (s.poll id).state = .due then s.overrunReports n id else []) ++
        (s.line n).pollList.flatMap fun id =>
          if (s.poll id).losesPoll (s.line n).counters.cycle = true then s.overrunReports n id else [])
      s ((s.line n).pollList.foldl (State.markEntry n) ((s.line n).pollList.foldl (State.clearOverrun n) s)) := by
  have hclear := State.foldl_settles (n := n) (cycle := (s.line n).counters.cycle) (loses := fun p => p.state = .due)
    (fun t id h _ => State.clearOverrun_settles h n id) hids s hdevice rfl
  generalize (s.line n).pollList.foldl (State.clearOverrun n) s = t at hclear ⊢
  have hlines : t.lines = s.lines := (congrArg State.lines hclear.frame :)
  have hstations : t.stations = s.stations := (congrArg State.stations hclear.frame :)
  have hhbi : t.hbi = s.hbi := (congrArg State.hbi hclear.frame :)
  have hmark := State.foldl_settles (n := n) (cycle := (s.line n).counters.cycle)
    (loses := fun p => p.losesPoll (s.line n).counters.cycle = true)
    (fun u id h hcycle => hcycle ▸ State.markEntry_settles h n id) hids t (by rw [hhbi]; exact hdevice)
    (by rw [State.line_congr hlines])
  have hsame : ((s.line n).pollList.flatMap fun id =>
        if (t.poll id).losesPoll (s.line n).counters.cycle = true then t.overrunReports n id else []) =
      (s.line n).pollList.flatMap fun id =>
        if (s.poll id).losesPoll (s.line n).counters.cycle = true then s.overrunReports n id else [] := by
    refine List.flatMap_congr fun id hid => ?_
    rw [hclear.poll, if_pos hid, Poll.losesPoll_cleared]
    by_cases hloses : (s.poll id).losesPoll (s.line n).counters.cycle = true
    · have hnotDue : (s.poll id).state ≠ .due := by
        rw [((s.poll id).losesPoll_iff _).mp hloses |>.1]
        decide
      have hpoll : t.poll id = s.poll id := by
        rw [hclear.poll, if_pos hid]
        exact if_neg hnotDue
      rw [if_pos hloses, if_pos hloses, State.overrunReports_congr hpoll hstations hlines]
    · rw [if_neg hloses, if_neg hloses]
  rw [hsame] at hmark
  refine ⟨hclear.frame_trans hmark, fun j => ?_⟩
  rw [hmark.poll, hclear.poll]
  split <;> rfl

/-- The step over a line's entries at its cycle start, before the overruns are counted. -/
def State.entriesSettled (s : State) (n : LineId) : State :=
  (s.line n).pollList.foldl (State.markEntry n) ((s.line n).pollList.foldl (State.clearOverrun n) s)

/-- One overrun in a line's counter, its cause recorded. -/
def Line.overran (l : Line) : Line :=
  { l with eventOverrun := true, counters := { l.counters with overruns := satSucc Config.counterMax l.counters.overruns } }

theorem State.countOverruns_eq (s : State) (n : LineId) : s.countOverruns n = (s.modLine n Line.overran).latch .lineEvent :=
  congrArg (fun t => State.latch t .lineEvent) (State.modLine_modLine ..)

theorem State.settleCycle_of_found {s : State} {n : LineId} (h : s.overrunFound n = true) :
    s.settleCycle n = ((s.entriesSettled n).modLine n Line.overran).latch .lineEvent := by
  rw [← State.countOverruns_eq]
  exact if_pos h

theorem State.settleCycle_of_none {s : State} {n : LineId} (h : s.overrunFound n = false) :
    s.settleCycle n = s.entriesSettled n :=
  if_neg (Bool.eq_false_iff.mp h)

/-- Counting the overruns touches neither the entries nor the holding queue. -/
theorem State.settleCycle_polls (s : State) (n : LineId) : (s.settleCycle n).polls = (s.entriesSettled n).polls := by
  cases h : s.overrunFound n with
  | true => rw [State.settleCycle_of_found h]; rfl
  | false => rw [State.settleCycle_of_none h]

theorem State.settleCycle_writer (s : State) (n : LineId) : (s.settleCycle n).writer = (s.entriesSettled n).writer := by
  cases h : s.overrunFound n with
  | true => rw [State.settleCycle_of_found h]; rfl
  | false => rw [State.settleCycle_of_none h]

theorem State.settleCycle_poll {s : State} {n : LineId} (hids : (s.line n).pollList.Nodup) (hdevice : s.hbi.device ≠ .faulted)
    (id : PollId) :
    (s.settleCycle n).poll id =
      if id ∈ (s.line n).pollList then (s.poll id).cleared.marked (s.line n).counters.cycle else s.poll id :=
  (State.poll_congr (s.settleCycle_polls n) id).trans ((State.settled_entries hids hdevice).poll id)

/-- A line that loses a poll counts one overrun at its cycle start. -/
theorem State.settleCycle_line_of_found {s : State} {n : LineId} (hids : (s.line n).pollList.Nodup)
    (hdevice : s.hbi.device ≠ .faulted) (h : s.overrunFound n = true) : (s.settleCycle n).line n = (s.line n).overran := by
  have hlines : (s.entriesSettled n).lines = s.lines := (congrArg State.lines (State.settled_entries hids hdevice).frame :)
  rw [State.settleCycle_of_found h]
  exact (State.modLine_line_self ..).trans (congrArg Line.overran (State.line_congr hlines n))

/-- The OVERRUN report an entry offers at a cycle start (R96 to R98). -/
def State.overrunReport (s : State) (n : LineId) (id : PollId) : Completion :=
  { tag := BitVec.ofNat 32 id.val, status := .overrun
    detail := BitVec.ofNat 8 (min (satSucc Config.counterMax (s.poll id).skipped) 255), kind := .poll
    stationState := (s.station (s.poll id).station).state.code, origin := BitVec.ofNat 8 id.val
    attempts := 0, segments := 0, delivered := 0, residue := 0, stamp := (s.line n).counters.cycle.setWidth 16 }

/-- The reports of a pass over the entries: of those that lose a poll in it, those whose mode asks for a report, in list order. -/
theorem State.overrunReports_eq (s : State) (n : LineId) (ids : List PollId) (lost : PollId → Bool) (loses : PollId → Prop)
    [DecidablePred loses] (hlost : ∀ id, lost id = true ↔ loses id) :
    (ids.flatMap fun id => if loses id then s.overrunReports n id else []) =
      ((ids.filter lost).filter fun id => decide ((s.poll id).mode = .always ∨ (s.poll id).mode = .onError)).map
        (s.overrunReport n) := by
  have hmode : (fun id => decide ((s.poll id).mode = .always ∨ (s.poll id).mode = .onError)) =
      fun id => (s.poll id).reportsOverrun :=
    funext fun id => (Bool.decide_or _ _)
  rw [hmode, ← flatMap_reports]
  refine List.flatMap_congr fun id _ => ?_
  by_cases h : loses id
  · rw [if_pos h, if_pos ((hlost id).mpr h)]
    rfl
  · rw [if_neg h, if_neg (mt (hlost id).mp h)]

/-! ### The reprobe counters (R75, R112) -/

/-- The reprobe counter of an entry is set. -/
def Station.withReprobe (count : Nat) (st : Station) : Station := { st with reprobe := count }

theorem Line.holdsFor_iff (l : Line) (k : SlotId) (test : FollowUp → Bool) :
    l.holdsFor k test = true ↔ ∃ f ∈ l.followUp, f.slot = k ∧ test f = true := by
  simp only [Line.holdsFor, List.any_eq_true, Bool.and_eq_true, beq_iff_eq]

theorem State.reprobeSlot_of_other {s : State} {n : LineId} {k : SlotId}
    (h : (s.station k).state ≠ .offline ∨ (s.station k).line ≠ n) : State.reprobeSlot n s k = s :=
  if_neg fun hoffline => h.elim (fun hne => hne hoffline.1) fun hne => hne hoffline.2

/-- The reprobe counter after its advance (R75). -/
def Station.advanced (st : Station) : Nat := if st.reprobe < st.reprobeInterval then st.reprobe + 1 else st.reprobe

theorem State.reprobeSlot_of_offline {s : State} {n : LineId} {k : SlotId} (hstate : (s.station k).state = .offline)
    (hline : (s.station k).line = n) :
    State.reprobeSlot n s k =
      if (s.station k).reprobeInterval ≤ (s.station k).advanced then
        (s.modStation k (Station.withReprobe (s.station k).advanced)).offerProbe n k
      else s.modStation k (Station.withReprobe (s.station k).advanced) := by
  have hadvance : s.modStation k Station.advanceReprobe = s.modStation k (Station.withReprobe (s.station k).advanced) :=
    State.modStation_congr rfl
  rw [State.reprobeSlot, if_pos ⟨hstate, hline⟩, hadvance]
  simp only [State.modStation_station_self, Station.withReprobe]

/-- A station served by its offer starts its count anew. -/
theorem State.served_eq (s : State) (k : SlotId) (count : Nat) :
    (s.modStation k (Station.withReprobe count)).modStation k (Station.withReprobe 0) = s.modStation k (Station.withReprobe 0) :=
  State.modStation_modStation ..

theorem State.offerProbe_of_probe {s : State} {n : LineId} {k : SlotId}
    (h : ∃ f ∈ (s.line n).followUp, f.slot = k ∧ f.kind = .probe) :
    s.offerProbe n k = s.modStation k (Station.withReprobe 0) :=
  if_pos ((Line.holdsFor_iff ..).mpr (by simpa only [beq_iff_eq] using h))

theorem State.offerProbe_of_room {s : State} {n : LineId} {k : SlotId} (hnone : ∀ f ∈ (s.line n).followUp, f.slot ≠ k)
    (hroom : (s.line n).followUp.length < 8) :
    s.offerProbe n k =
      (s.modStation k (Station.withReprobe 0)).modLine n fun m => { m with followUp := m.followUp ++ [{ kind := .probe, slot := k }] } := by
  have hfree (test : FollowUp → Bool) : (s.line n).holdsFor k test = false := Bool.eq_false_iff.mpr fun h => by
    obtain ⟨f, hf, hslot, -⟩ := (Line.holdsFor_iff ..).mp h
    exact hnone f hf hslot
  have hjoins : (decide ((s.line n).followUp.length < Config.followUpDepth) && !(s.line n).holdsFor k fun _ => true) = true := by
    rw [hfree, Bool.not_false, Bool.and_true]
    exact decide_eq_true hroom
  refine (if_neg (Bool.eq_false_iff.mp (hfree _))).trans ((if_pos hjoins).trans ?_)
  rfl

theorem State.offerProbe_of_refused {s : State} {n : LineId} {k : SlotId}
    (hprobe : ∀ f ∈ (s.line n).followUp, ¬(f.slot = k ∧ f.kind = .probe))
    (hfull : 8 ≤ (s.line n).followUp.length ∨ ∃ f ∈ (s.line n).followUp, f.slot = k) : s.offerProbe n k = s := by
  have hnone : (s.line n).holdsFor k (fun f => f.kind == .probe) = false := Bool.eq_false_iff.mpr fun h => by
    obtain ⟨f, hf, hslot, hkind⟩ := (Line.holdsFor_iff ..).mp h
    exact hprobe f hf ⟨hslot, beq_iff_eq.mp hkind⟩
  have hrefused : (decide ((s.line n).followUp.length < Config.followUpDepth) && !(s.line n).holdsFor k fun _ => true) = false := by
    rcases hfull with hfull | ⟨f, hf, hslot⟩
    · exact Bool.and_eq_false_imp.mpr fun hroom => absurd (of_decide_eq_true hroom) (Nat.not_lt.mpr hfull)
    · rw [(Line.holdsFor_iff ..).mpr ⟨f, hf, hslot, rfl⟩, Bool.not_true, Bool.and_false]
  exact (if_neg (Bool.eq_false_iff.mp hnone)).trans (if_neg (Bool.eq_false_iff.mp hrefused))

/-! ### The event of a cycle start -/

theorem State.firstDue_isSome_iff (s : State) (n : LineId) :
    (s.firstDue n).isSome = true ↔ ∃ id ∈ (s.line n).pollList, (s.poll id).state = .due := by
  rw [State.firstDue, List.find?_isSome]
  simp only [beq_iff_eq]

theorem State.runCycle_eq (s : State) (n : LineId) :
    s.runCycle n =
      if ((s.cycleWork n).firstDue n).isSome || decide ((s.line n).followUp.length < ((s.cycleWork n).line n).followUp.length) then
        (s.cycleWork n).arbiterChoice n
      else s.cycleWork n := rfl

theorem exec_cycleStart_of_running {s : State} {n : LineId} (h : (s.line n).cycleTimer.isRunning = true) :
    exec (.cycleStart n) s = .next (s.cycleExpiry n).askFetch :=
  congrArg Host.Outcome.next (if_pos h)

theorem exec_cycleStart_of_stopped {s : State} {n : LineId} (h : (s.line n).cycleTimer.isRunning = false) :
    exec (.cycleStart n) s = .next s :=
  congrArg Host.Outcome.next (if_neg (Bool.eq_false_iff.mp h))

/-! ### A cycle start that comes together with the end of a poll's exchange (R97) -/

/-- What leaving a poll's exchange is for the Poll Pool. -/
def Poll.settled (p : Poll) : Poll := { p with state := if p.dueAgain then .due else .idle, dueAgain := false }

/-- An engine that leaves a poll's exchange settles the entry and, of a station, clears the busy flag. -/
theorem State.leaveExchange_frame {s : State} {n : LineId} {x : Exchange} {id : PollId} (hexchange : (s.line n).exchange = some x)
    (horigin : x.origin = .poll id) (hstate : (s.poll id).state = .inFlight) :
    s.leaveExchange n = { s.modPoll id Poll.settled with stations := (s.leaveExchange n).stations } := by
  rw [State.leaveExchange, hexchange]
  cases hstation : x.station with
  | none =>
    simp only [hstation, horigin]
    rw [State.settlePoll_of_inFlight hstate]
    rfl
  | some k =>
    simp only [hstation, horigin]
    rw [State.settlePoll_of_inFlight (s := s.modStation k fun st => { st with busy := false }) hstate]
    rfl

/-- A poll entry whose exchange ends and whose poll is lost at the same moment. -/
def Poll.lostAndDue (p : Poll) : Poll := { p with state := .due, dueAgain := false, skipped := satSucc Config.counterMax p.skipped }

section

variable {p : Poll} {cycle : Word}

/-- The exchange ends first: the entry, DUE again, is overrun in the clearing pass. -/
theorem Poll.settled_then_marked (hagain : p.dueAgain = true) (hdue : p.dueIn cycle = true) :
    p.settled.cleared.marked cycle = p.lostAndDue := by
  have hdue' : p.settled.dueIn cycle = true := hdue
  rw [Poll.marked_cleared, hdue']
  simp [Poll.settled, Poll.lostAndDue, hagain]

/-- The cycle start first: the entry in flight is overrun in the marking pass. -/
theorem Poll.marked_then_settled (hstate : p.state = .inFlight) (hagain : p.dueAgain = true) (hdue : p.dueIn cycle = true) :
    (p.cleared.marked cycle).settled = p.lostAndDue := by
  rw [Poll.marked_cleared, Poll.losesPoll, hdue]
  simp [Poll.settled, Poll.lostAndDue, hagain, hstate]

end

section

variable {s : State} {n : LineId} {x : Exchange} {id : PollId}

theorem State.leaveExchange_then_settleCycle (hexchange : (s.line n).exchange = some x) (horigin : x.origin = .poll id)
    (hids : (s.line n).pollList.Nodup) (hid : id ∈ (s.line n).pollList) (hdevice : s.hbi.device ≠ .faulted)
    (hstate : (s.poll id).state = .inFlight) (hagain : (s.poll id).dueAgain = true)
    (hdue : (s.poll id).dueIn (s.line n).counters.cycle = true) :
    ((s.leaveExchange n).settleCycle n).poll id = (s.poll id).lostAndDue ∧
      ((s.leaveExchange n).settleCycle n).line n = (s.line n).overran := by
  have hleave := State.leaveExchange_frame hexchange horigin hstate
  have hline : (s.leaveExchange n).line n = s.line n := State.line_congr (congrArg State.lines hleave :) n
  have hhbi : (s.leaveExchange n).hbi = s.hbi := (congrArg State.hbi hleave :)
  have hpoll : (s.leaveExchange n).poll id = (s.poll id).settled :=
    (State.poll_congr (congrArg State.polls hleave :) id).trans (State.modPoll_poll_self ..)
  generalize s.leaveExchange n = t at hline hhbi hpoll
  rw [← hline] at hids hid hdue
  rw [← hhbi] at hdevice
  have hdueState : (t.poll id).state = .due := by
    rw [hpoll]
    exact if_pos hagain
  refine ⟨?_, (State.settleCycle_line_of_found hids hdevice ((t.overrunFound_iff n).mpr ⟨id, hid, .inl hdueState⟩)).trans
    (congrArg Line.overran hline)⟩
  rw [State.settleCycle_poll hids hdevice, if_pos hid, hpoll]
  exact Poll.settled_then_marked hagain hdue

theorem State.settleCycle_then_leaveExchange (hexchange : (s.line n).exchange = some x) (horigin : x.origin = .poll id)
    (hids : (s.line n).pollList.Nodup) (hid : id ∈ (s.line n).pollList) (hdevice : s.hbi.device ≠ .faulted)
    (hstate : (s.poll id).state = .inFlight) (hagain : (s.poll id).dueAgain = true)
    (hdue : (s.poll id).dueIn (s.line n).counters.cycle = true) :
    ((s.settleCycle n).leaveExchange n).poll id = (s.poll id).lostAndDue ∧
      ((s.settleCycle n).leaveExchange n).line n = (s.line n).overran := by
  have hloses : (s.poll id).losesPoll (s.line n).counters.cycle = true :=
    ((s.poll id).losesPoll_iff _).mpr ⟨hstate, hagain, beq_iff_eq.mp hdue⟩
  have hpoll := State.settleCycle_poll hids hdevice id
  rw [if_pos hid] at hpoll
  have hline := State.settleCycle_line_of_found hids hdevice ((s.overrunFound_iff n).mpr ⟨id, hid, .inr hloses⟩)
  have hflies : ((s.settleCycle n).poll id).state = .inFlight := by
    rw [hpoll, Poll.marked_cleared, hstate]
  have hholds : ((s.settleCycle n).line n).exchange = some x := by
    rw [hline]
    exact hexchange
  have hleave := State.leaveExchange_frame hholds horigin hflies
  refine ⟨(State.poll_congr (congrArg State.polls hleave :) id).trans ?_,
    (State.line_congr (congrArg State.lines hleave :) n).trans hline⟩
  refine (State.modPoll_poll_self _ id Poll.settled).trans ?_
  rw [hpoll]
  exact Poll.marked_then_settled hstate hagain hdue

end

/-- Settles O58. The reports a line's entries offer at its cycle start are those of the clearing pass, then those of the marking pass, each
in list order; an entry that loses its poll to an exchange end at the same moment is overrun in one of the two passes, in both orders. -/
theorem cycleStartMarksAndOverruns : Obligations.CycleStartMarksAndOverruns := by
  unfold Obligations.CycleStartMarksAndOverruns
  refine ⟨fun s n => ⟨fun hstopped => ?stopped, fun p hp => ?runs⟩, fun s n hids hdevice => ?settles,
    fun s n x id hexchange horigin hids hid hdevice hstate hagain hdue => ?together, fun s n => ⟨rfl, ?work⟩, rfl, fun s n k => ?reprobes⟩
  case stopped =>
    exact exec_cycleStart_of_stopped (Bool.eq_false_iff.mpr fun h =>
      let ⟨p, hp⟩ := (CycleTimer.isRunning_iff _).mp h
      hstopped p hp)
  case runs =>
    intro a b
    have hexec : exec (.cycleStart n) s = .next (b.arbiterChoice n).askFetch :=
      exec_cycleStart_of_running ((CycleTimer.isRunning_iff _).mpr ⟨p, hp⟩)
    refine ⟨hexec, fun hnone => hexec.trans ?_⟩
    rw [State.arbiterChoice, State.chooseLoop_of_no_work hnone]
  case settles =>
    intro l t up due left again reports
    have hagain (id : PollId) : again id = (s.poll id).losesPoll l.counters.cycle := rfl
    have hsettled := State.settled_entries hids hdevice
    have hfound : (l.pollList.any fun id => left id || again id) = s.overrunFound n := rfl
    have hlines : (s.entriesSettled n).lines = s.lines := (congrArg State.lines hsettled.frame :)
    have hhbi : (s.entriesSettled n).hbi = s.hbi := (congrArg State.hbi hsettled.frame :)
    refine ⟨fun id hid => ?_, fun id hid => ?_, ?_, fun h => ?_, fun h => ?_⟩
    · exact (State.settleCycle_poll hids hdevice id).trans (if_neg hid)
    · refine (State.settleCycle_poll hids hdevice id).trans ((if_pos hid).trans (Poll.marked_cleared ..))
    · refine (s.settleCycle_writer n).trans ((congrArg State.writer hsettled.frame).trans ?_)
      rw [s.overrunReports_eq n l.pollList left (fun id => (s.poll id).state = .due) fun id => decide_eq_true_iff,
        s.overrunReports_eq n l.pollList again (fun id => (s.poll id).losesPoll l.counters.cycle = true) fun id => Iff.rfl,
        ← List.map_append, ← List.filter_append]
      rfl
    · refine ⟨State.settleCycle_line_of_found hids hdevice (hfound.symm.trans h), ?_⟩
      have hcounted : t.hbi = { (s.entriesSettled n).hbi with attention := (s.entriesSettled n).hbi.attention ||| 0x08#7 } :=
        congrArg State.hbi (State.settleCycle_of_found (hfound.symm.trans h))
      rw [hcounted, hhbi]
    · have hsettle : t = _ := State.settleCycle_of_none (hfound.symm.trans h)
      exact hsettle ▸ ⟨State.line_congr hlines n, hhbi⟩
  case together =>
    intro up
    have hpollDue : (s.poll id).dueIn (s.line n).counters.cycle = true := beq_iff_eq.mpr hdue
    have hexpected (t : State) (hpoll : t.poll id = (s.poll id).lostAndDue) (hline : (t.line n).counters = (s.line n).overran.counters) :
        t.poll id = { s.poll id with state := .due, dueAgain := false, skipped := up (s.poll id).skipped } ∧
          (t.line n).counters.overruns = up (s.line n).counters.overruns :=
      ⟨hpoll, congrArg LineCounters.overruns hline⟩
    obtain ⟨hpollFirst, hlineFirst⟩ := State.leaveExchange_then_settleCycle hexchange horigin hids hid hdevice hstate hagain hpollDue
    obtain ⟨hpollSecond, hlineSecond⟩ := State.settleCycle_then_leaveExchange hexchange horigin hids hid hdevice hstate hagain hpollDue
    exact List.forall_mem_cons.mpr ⟨hexpected _ hpollFirst (congrArg Line.counters hlineFirst),
      List.forall_mem_singleton.mpr (hexpected _ hpollSecond (congrArg Line.counters hlineSecond))⟩
  case work =>
    intro b chooses
    have hchooses : ((b.firstDue n).isSome || decide ((s.line n).followUp.length < (b.line n).followUp.length)) = true ↔ chooses := by
      rw [Bool.or_eq_true, State.firstDue_isSome_iff, decide_eq_true_iff]
    have hrun : s.runCycle n = if (b.firstDue n).isSome || decide ((s.line n).followUp.length < (b.line n).followUp.length) then
        b.arbiterChoice n else b := s.runCycle_eq n
    rw [hrun]
    exact ⟨fun h => if_pos (hchooses.mpr h), fun h => if_neg (mt hchooses.mp h)⟩
  case reprobes =>
    intro st queue count held
    refine ⟨State.reprobeSlot_of_other, fun hstate hline => ?_⟩
    have hslot := State.reprobeSlot_of_offline hstate hline
    refine ⟨fun hcount => hslot.trans (if_neg (Nat.not_le.mpr hcount)), fun hcount => ⟨fun hprobe => ?_, fun hnone hroom => ?_,
      fun hprobe hfull => ?_⟩⟩
    · exact (hslot.trans (if_pos hcount)).trans ((State.offerProbe_of_probe (s := held count) hprobe).trans (s.served_eq k _))
    · exact (hslot.trans (if_pos hcount)).trans ((State.offerProbe_of_room (s := held count) hnone hroom).trans
        (congrArg (fun u => State.modLine u n fun m => { m with followUp := m.followUp ++ [{ kind := .probe, slot := k }] })
          (s.served_eq k _)))
    · exact (hslot.trans (if_pos hcount)).trans (State.offerProbe_of_refused hprobe hfull)

end Sys2Proof.Machine
end

section
/-! PROOFS. The bus-master arbiter: what its ten requesters ask for, and the grant to the first of them (R143, R185). -/

namespace Sys2Proof.Machine

/-! ### Which bursts are asked for (R185) -/

/-- A burst lies inside one block of 64 bytes (R185). -/
def Burst.InBlock (b : Burst) : Prop := b.length ≤ 64 ∧ b.address.toNat % 64 + b.length ≤ 64

theorem roomAt_eq (a : Word) : roomAt a = 64 - a.toNat % 64 := rfl

theorem Burst.inBlock_of_room {b : Burst} (h : b.length ≤ roomAt b.address) : b.InBlock := by
  rw [roomAt_eq] at h
  have hmod : b.address.toNat % 64 < 64 := Nat.mod_lt _ (by decide)
  exact ⟨by omega, by omega⟩

theorem writeBurst_inBlock (owner : Requester) (a : Word) (bytes : List Byte) : (writeBurst owner a bytes).InBlock :=
  Burst.inBlock_of_room (List.length_take_le ..)

theorem readBurst_inBlock (owner : Requester) (a : Word) (remaining : Nat) : (readBurst owner a remaining).InBlock :=
  Burst.inBlock_of_room (Nat.min_le_right ..)

/-- A record whose size divides 64 lies in one block of an area that begins at a block (R137). -/
theorem recordAddress_inBlock {base : Word} (hbase : base.toNat % 64 = 0) (size : Nat) {bytes : Nat} (index : Half)
    (hbytes : bytes = 16 ∨ bytes = 32) : (recordAddress base size bytes index).toNat % 64 + bytes ≤ 64 := by
  rw [recordAddress, BitVec.toNat_add, BitVec.toNat_ofNat]
  generalize index.toNat % size = i
  rcases hbytes with rfl | rfl <;> omega

theorem State.whenWorking_of_some {s : State} {o : Option Burst} {b : Burst} (h : s.whenWorking o = some b) : o = some b := by
  rw [State.whenWorking] at h
  split at h
  · exact h
  · cases h

theorem State.shadowBurst_inBlock {s : State} {b : Burst} (h : s.shadowBurst = some b) : b.InBlock := by
  rw [State.shadowBurst] at h
  split at h
  · cases h
    exact writeBurst_inBlock ..
  · split at h
    · cases h
      exact writeBurst_inBlock ..
    · cases h

theorem State.completionBurst_inBlock {s : State} {b : Burst} (hbase : s.writer.base.toNat % 64 = 0)
    (h : s.completionBurst = some b) : b.InBlock := by
  rw [State.completionBurst] at h
  split at h
  · split at h
    · cases h
      exact ⟨(by decide : 16 ≤ 64), recordAddress_inBlock hbase _ _ (.inl rfl)⟩
    · cases h
  · cases h

theorem State.slotBurst_inBlock (s : State) (n : LineId) (w : SlotWrite) (status : Status) (data : List Byte) (done : Nat)
    (stamp : Word) : (s.slotBurst n w status data done stamp).InBlock := by
  cases w <;> exact writeBurst_inBlock ..

theorem State.moverBurst_inBlock {s : State} {n : LineId} {b : Burst} (h : s.moverBurst n = some b) : b.InBlock := by
  rw [State.moverBurst] at h
  split at h
  · split at h
    · split at h
      · cases h
      · cases h
        exact readBurst_inBlock ..
    · split at h
      · cases h
      · cases h
        exact writeBurst_inBlock ..
    · cases h
      exact State.slotBurst_inBlock ..
    · cases h
  · cases h

theorem State.captureBurst_inBlock {s : State} {b : Burst} (h : s.captureBurst = some b) : b.InBlock := by
  rw [State.captureBurst] at h
  split at h
  · cases h
    exact writeBurst_inBlock ..
  · cases h

theorem State.adminBurst_inBlock {s : State} {b : Burst} (h : s.adminBurst = some b) : b.InBlock := by
  rw [State.adminBurst] at h
  split at h
  any_goals cases h
  all_goals exact writeBurst_inBlock ..

theorem State.contextBurst_inBlock {s : State} {b : Burst} (hbase : s.hbi.device = .loading → s.hbi.contextAddress.toNat % 64 = 0)
    (h : s.contextBurst = some b) : b.InBlock := by
  rw [State.contextBurst] at h
  split at h
  · next hloading =>
    cases h
    exact ⟨le_rfl, (congrArg (· + 64) (hbase hloading)).le⟩
  · cases h

/-- Whatever a requester asks for lies in one block, with the areas of the context block aligned (R137, R185). -/
theorem State.request_inBlock {s : State} {k : Fin 10} {b : Burst} (hrings : ∀ r, (s.ring r).base.toNat % 64 = 0)
    (hwriter : s.writer.base.toNat % 64 = 0) (hcontext : s.hbi.device = .loading → s.hbi.contextAddress.toNat % 64 = 0)
    (h : s.request k = some b) : b.InBlock := by
  match k with
  | 0 => exact State.contextBurst_inBlock hcontext h
  | 1 =>
    obtain ⟨r, -, rfl⟩ := Option.map_eq_some_iff.mp h
    exact ⟨(by decide : 32 ≤ 64), recordAddress_inBlock (hrings r) _ _ (.inr rfl)⟩
  | 2 => exact State.shadowBurst_inBlock (State.whenWorking_of_some h)
  | 3 => exact State.completionBurst_inBlock hwriter (State.whenWorking_of_some h)
  | 4 => exact State.moverBurst_inBlock (n := 0) h
  | 5 => exact State.moverBurst_inBlock (n := 1) h
  | 6 => exact State.moverBurst_inBlock (n := 2) h
  | 7 => exact State.moverBurst_inBlock (n := 3) h
  | 8 => exact State.captureBurst_inBlock (State.whenWorking_of_some h)
  | 9 => exact State.adminBurst_inBlock h

/-! ### The grant of the bus (R185) -/

/-- The grant of the bus to the requester at a place, for the burst it asks for (R185). -/
def State.grants (s : State) (k : Fin 10) (b : Burst) : State :=
  (s.atGrant b.owner).modHbi fun h => { h with burst := some b, busPointer := k + 1 }

theorem State.grantBus_of_held {s : State} (h : s.busFree = false) : s.grantBus = s := if_neg (Bool.eq_false_iff.mp h)

theorem State.grantBus_of_none {s : State} (h : s.nextGrant = none) : s.grantBus = s := by
  rw [State.grantBus, h]
  exact ite_self _

theorem State.grantBus_of_next {s : State} {k : Fin 10} {b : Burst} (hfree : s.busFree = true) (h : s.nextGrant = some (k, b)) :
    s.grantBus = s.grants k b := by
  rw [State.grantBus, if_pos hfree, h]
  rfl

theorem State.request_of_nextGrant {s : State} {k : Fin 10} {b : Burst} (h : s.nextGrant = some (k, b)) : s.request k = some b := by
  obtain ⟨j, -, hj⟩ := List.exists_of_findSome?_eq_some h
  obtain ⟨c, hc, heq⟩ := Option.map_eq_some_iff.mp hj
  cases heq
  exact hc

/-- A burst in progress after a grant was asked for. -/
theorem State.request_of_grantBus {s : State} {b : Burst} (hfree : s.hbi.burst = none) (h : s.grantBus.hbi.burst = some b) :
    ∃ k, s.request k = some b := by
  cases hbus : s.busFree with
  | false =>
    rw [State.grantBus_of_held hbus, hfree] at h
    cases h
  | true =>
    cases hnext : s.nextGrant with
    | none =>
      rw [State.grantBus_of_none hnext, hfree] at h
      cases h
    | some kc =>
      rw [State.grantBus_of_next hbus hnext] at h
      cases h
      exact ⟨_, State.request_of_nextGrant hnext⟩

/-! ### The ring-fetch requester (R143) -/

theorem Ring.waiting_pos_iff (g : Ring) : 0 < g.waiting ↔ g.accepted ≠ g.consumer := by
  rw [Ring.waiting]
  bv_omega

theorem State.ringReady_zero (s : State) : s.ringReady 0 = (s.admin == .idle) := rfl

theorem State.ringReady_succ (s : State) (n : LineId) :
    s.ringReady n.succ = true ↔
      (s.line n).engine ≠ .off ∧ (s.line n).stopping = none ∧ (s.line n).prefetched.length < 4 ∧ s.ringUnit.claim = none := by
  rw [State.ringReady, dif_neg (Fin.succ_ne_zero n), Fin.pred_succ]
  simp only [Line.running, Bool.and_eq_true, decide_eq_true_eq, Option.isNone_iff_eq_none, bne_iff_ne, and_assoc]
  rfl

theorem State.ringReady_iff (s : State) (r : RingId) :
    s.ringReady r = true ↔
      (r = 0 → s.admin = .idle) ∧
        ∀ n : LineId, r = n.succ →
          (s.line n).engine ≠ .off ∧ (s.line n).stopping = none ∧ (s.line n).prefetched.length < 4 ∧ s.ringUnit.claim = none := by
  cases r using Fin.cases with
  | zero =>
    rw [State.ringReady_zero, beq_iff_eq]
    exact ⟨fun h => ⟨fun _ => h, fun n hn => absurd hn.symm (Fin.succ_ne_zero n)⟩, fun h => h.1 rfl⟩
  | succ n =>
    rw [State.ringReady_succ]
    exact ⟨fun h => ⟨fun h0 => absurd h0 (Fin.succ_ne_zero n), fun m hm => Fin.succ_inj.mp hm ▸ h⟩, fun h => h.2 n rfl⟩

theorem State.ringEligible_iff (s : State) (r : RingId) :
    s.ringEligible r = true ↔
      s.hbi.device = .running ∧ (s.ring r).state = .active ∧ (s.ring r).accepted ≠ (s.ring r).consumer ∧ s.ringReady r = true := by
  simp only [State.ringEligible, Bool.and_eq_true, beq_iff_eq, decide_eq_true_eq, Ring.waiting_pos_iff, and_assoc]

theorem State.fetchUnderWay_iff (s : State) : s.fetchUnderWay = true ↔ ∃ r, s.burstOf (.ringFetch r) = true := by
  rw [State.fetchUnderWay]
  cases hburst : s.hbi.burst with
  | none => simp [State.burstOf, hburst]
  | some b =>
    have hof (r : RingId) : s.burstOf (.ringFetch r) = true ↔ b.owner = .ringFetch r := by
      simp [State.burstOf, hburst]
    simp only [hof]
    cases b.owner <;> simp

/-- Settles O20: every burst asked for lies in one block, and a grant starts only a burst asked for. -/
theorem grantedBurstStaysInOneBlock : Obligations.GrantedBurstStaysInOneBlock := by
  unfold Obligations.GrantedBurstStaysInOneBlock
  refine ⟨fun s t b hburst hrings hwriter hcontext _ _ _ hexec hgranted => ?_, fun s r => ⟨State.ringToFetch_eligible, ?_⟩,
    fun s => ⟨fun h => ?_, fun h => ?_, rfl⟩⟩
  · have hrun : exec .busGrant s = .next s.grantBus := rfl
    rw [hrun] at hexec
    cases hexec
    obtain ⟨k, hk⟩ := State.request_of_grantBus hburst hgranted
    exact State.request_inBlock hrings hwriter hcontext hk
  · rw [State.ringEligible_iff, State.ringReady_iff]
  · rw [State.askFetch, (s.fetchUnderWay_iff).mpr h]
    rfl
  · have hfree : s.fetchUnderWay = false := Bool.eq_false_iff.mpr fun hway => by
      obtain ⟨r, hr⟩ := (s.fetchUnderWay_iff).mp hway
      rw [h r] at hr
      cases hr
    rw [State.askFetch, hfree]
    rfl

/-! ### The bytes of the records the bus carries (R194 to R199) -/

theorem extractLsb'_byte {w : Nat} (x : BitVec w) (k : Nat) : x.extractLsb' k 8 = BitVec.ofNat 8 (x.toNat / 2 ^ k) := by
  apply BitVec.eq_of_toNat_eq
  rw [BitVec.extractLsb'_toNat, Nat.shiftRight_eq_div_pow, BitVec.toNat_ofNat]

/-- A 16-bit value as its two bytes (section 0.6, Byte order). -/
theorem le16_eq (h : Half) : le16 h = [BitVec.ofNat 8 h.toNat, BitVec.ofNat 8 (h.toNat / 256)] := by
  simp only [le16, extractLsb'_byte, Nat.pow_zero, Nat.div_one]
  rfl

theorem le16_halfOf (k : Nat) : le16 (halfOf k) = [BitVec.ofNat 8 k, BitVec.ofNat 8 (k / 256)] := by
  have hlow : BitVec.ofNat 8 (k % 65536) = BitVec.ofNat 8 k := BitVec.eq_of_toNat_eq (by simp only [BitVec.toNat_ofNat]; omega)
  have hhigh : BitVec.ofNat 8 (k % 65536 / 256) = BitVec.ofNat 8 (k / 256) :=
    BitVec.eq_of_toNat_eq (by simp only [BitVec.toNat_ofNat]; omega)
  have hmod : (halfOf k).toNat = k % 65536 := BitVec.toNat_ofNat ..
  rw [le16_eq, hmod, hlow, hhigh]

theorem le32_eq (w : Word) :
    le32 w = [BitVec.ofNat 8 w.toNat, BitVec.ofNat 8 (w.toNat / 256)] ++
      [BitVec.ofNat 8 (w.toNat / 65536), BitVec.ofNat 8 (w.toNat / 65536 / 256)] := by
  simp only [le32, extractLsb'_byte, Nat.pow_zero, Nat.div_one, Nat.div_div_eq_div_mul]
  rfl

theorem setWidth_eq_ofNat {v w : Nat} (x : BitVec v) : x.setWidth w = BitVec.ofNat w x.toNat := (BitVec.ofNat_toNat ..).symm

theorem RingFaultCause.code_eq (c : RingFaultCause) :
    c.code = BitVec.ofNat 8 ([RingFaultCause.none, .badProducer, .badNotify, .fetchError, .badRelease].idxOf c) := by
  cases c <;> rfl

theorem Engine.code_eq (e : Engine) :
    e.code = BitVec.ofNat 8 ([Engine.off, .idle, .quiet, .lead, .send, .trail, .await, .receive, .backoff, .deliver,
      .completeWait].idxOf e) := by
  cases e <;> rfl

/-- The rings in the order of their ids. -/
theorem State.rings_toList (s : State) : s.ringUnit.rings.toList = [s.ring 0, s.ring 1, s.ring 2, s.ring 3, s.ring 4] := by
  refine List.ext_getElem (by simp) fun i h _ => ?_
  rw [Vector.length_toList] at h
  rw [Vector.getElem_toList]
  interval_cases i <;> rfl

/-- Five bits weighed by their places, from the highest in and one by one. -/
theorem weigh_bits (a b c d e : Nat) : a + 2 * (b + 2 * (c + 2 * (d + 2 * (e + 2 * 0)))) = a + 2 * b + 4 * c + 8 * d + 16 * e := by
  ring

/-- The shadow area's bytes (R199). -/
theorem State.shadowArea_eq (s : State) :
    s.ringUnit.shadowArea =
      le16 (s.ring 0).consumer ++ le16 (s.ring 1).consumer ++ le16 (s.ring 2).consumer ++ le16 (s.ring 3).consumer ++
      le16 (s.ring 4).consumer ++
      [BitVec.ofNat 8 (bitOf (decide ((s.ring 0).state = .faulted)) + 2 * bitOf (decide ((s.ring 1).state = .faulted)) +
        4 * bitOf (decide ((s.ring 2).state = .faulted)) + 8 * bitOf (decide ((s.ring 3).state = .faulted)) +
        16 * bitOf (decide ((s.ring 4).state = .faulted))), 0#8, s.ringUnit.faultCause.code, s.ringUnit.faultRing.setWidth 8,
       s.ringUnit.faultCount] ++ zeros 17 := by
  rw [RingUnit.shadowArea, State.rings_toList]
  simp only [List.foldr_cons, List.foldr_nil, List.flatMap_cons, List.flatMap_nil, List.append_assoc, List.append_nil, weigh_bits]

/-- A write burst carries what fits before the boundary (R185). -/
theorem writeBurst_eq (owner : Requester) (a : Word) (bytes : List Byte) :
    writeBurst owner a bytes =
      { owner := owner, address := a, length := min bytes.length (roomAt a), data := some (bytes.take (roomAt a)) } := by
  rw [writeBurst, List.length_take, Nat.min_comm]

/-- Bytes cut at the boundary beforehand give the same burst. -/
theorem writeBurst_take (owner : Requester) (a : Word) (bytes : List Byte) :
    writeBurst owner a (bytes.take (roomAt a)) = writeBurst owner a bytes := by
  rw [writeBurst, writeBurst, List.take_take, Nat.min_self]

theorem Station.record_eq (st : Station) :
    st.record =
      [BitVec.ofNat 8 st.state.code.toNat, BitVec.ofNat 8 st.line.val, BitVec.ofNat 8 st.address.toNat,
        BitVec.ofNat 8 st.responseTimeout, BitVec.ofNat 8 st.retryLimit, BitVec.ofNat 8 st.threshold,
        BitVec.ofNat 8 st.reprobeInterval,
        BitVec.ofNat 8 (bitOf st.captureEnable + 2 * bitOf st.toggle + 4 * bitOf st.resync + 8 * bitOf st.eventPending +
          16 * bitOf st.notice + 32 * bitOf st.busy),
        BitVec.ofNat 8 st.failures, BitVec.ofNat 8 st.reprobe] ++
      le16 (halfOf st.good) ++ le16 (halfOf st.failed) ++ zeros 18 := by
  rw [Station.record, setWidth_eq_ofNat, setWidth_eq_ofNat]
  rfl

/-! ### The requests, one by one (R137, R142, R143, R152, R61, R102, R130, R157) -/

theorem State.request_mover (s : State) (n : LineId) : s.request (Fin.ofNat 10 (4 + n.val)) = s.moverBurst n := by
  match n with
  | 0 => rfl
  | 1 => rfl
  | 2 => rfl
  | 3 => rfl

theorem State.whenWorking_of_working {s : State} (h : s.hbi.device.working = true) (b : Option Burst) : s.whenWorking b = b := if_pos h

theorem State.whenWorking_of_not {s : State} (h : s.hbi.device.working = false) (b : Option Burst) : s.whenWorking b = none :=
  if_neg (Bool.eq_false_iff.mp h)

/-- What is not asked for is not asked for in any device state. -/
theorem State.whenWorking_none (s : State) : s.whenWorking none = none := ite_self _

theorem busOrder_eq (p : Fin 10) : busOrder p = (List.finRange 10).map (p + ·) := by
  revert p
  decide

theorem ringOrder_eq (p : RingId) : ringOrder p = (List.finRange 5).map (p + ·) := by
  revert p
  decide

theorem State.nextGrant_of_none {s : State} (h : ∀ k, s.request k = none) : s.nextGrant = none := by
  rw [State.nextGrant, busOrder_eq]
  exact findSome?_map_add_of_none fun k => by rw [h k]; rfl

theorem State.nextGrant_of_first {s : State} {j : Fin 10} {b : Burst} (hj : s.request (s.hbi.busPointer + j) = some b)
    (hbefore : ∀ i, i < j → s.request (s.hbi.busPointer + i) = none) : s.nextGrant = some (s.hbi.busPointer + j, b) := by
  rw [State.nextGrant, busOrder_eq]
  exact findSome?_map_add_of_first (by rw [hj]; rfl) fun i hi => by rw [hbefore i hi]; rfl

theorem State.nextRing_of_none {s : State} (h : ∀ r, s.ringEligible r = false) : s.nextRing = none :=
  List.find?_eq_none.mpr fun r _ => Bool.eq_false_iff.mp (h r)

theorem State.nextRing_of_first {s : State} {j : RingId} (hj : s.ringEligible (s.ringUnit.fetchNext + j) = true)
    (hbefore : ∀ i, i < j → s.ringEligible (s.ringUnit.fetchNext + i) = false) :
    s.nextRing = some (s.ringUnit.fetchNext + j) := by
  rw [State.nextRing, ringOrder_eq]
  exact find?_map_add_of_first hj hbefore

theorem State.ringToFetch_of_requested {s : State} {r : RingId} (h : s.ringUnit.requested = some r) (heligible : s.ringEligible r = true) :
    s.ringToFetch = some r := by
  rw [State.ringToFetch, h]
  exact if_pos heligible

/-- A request that its ring no longer bears falls (log entry 37). -/
theorem State.ringToFetch_of_fallen {s : State} (h : ∀ r, s.ringUnit.requested = some r → s.ringEligible r = false) :
    s.ringToFetch = s.nextRing := by
  rw [State.ringToFetch]
  split
  · next r hr => exact if_neg (Bool.eq_false_iff.mp (h r hr))
  · rfl

/-- The rest of a shadow copy after a burst: none once all its bytes fit (R142). -/
theorem rest_of_copy (bytes : List Byte) (room : Nat) :
    (if (bytes.drop room).isEmpty then none else some (bytes.drop room)) = if bytes.length ≤ room then none else some (bytes.drop room) := by
  simp only [List.isEmpty_iff, List.drop_eq_nil_iff]

theorem State.shadowGrant_of_rest {s : State} {rest : List Byte} (h : s.ringUnit.shadowRest = some rest) :
    s.ringUnit.shadowGrant =
      { s.ringUnit with
        shadowRest :=
          if rest.length ≤ roomAt (s.ringUnit.shadowAddress + BitVec.ofNat 32 (32 - rest.length)) then none
          else some (rest.drop (roomAt (s.ringUnit.shadowAddress + BitVec.ofNat 32 (32 - rest.length)))) } := by
  rw [RingUnit.shadowGrant, h]
  simp only [rest_of_copy]

theorem State.shadowGrant_of_new {s : State} (h : s.ringUnit.shadowRest = none) :
    s.ringUnit.shadowGrant =
      { s.ringUnit with
        shadowMarked := false
        shadowRest :=
          if s.ringUnit.shadowArea.length ≤ roomAt s.ringUnit.shadowAddress then none
          else some (s.ringUnit.shadowArea.drop (roomAt s.ringUnit.shadowAddress)) } := by
  rw [RingUnit.shadowGrant, h]
  simp only [rest_of_copy]

theorem State.stampGrant_of_slotWrite {s : State} {n : LineId} {w : SlotWrite} {status : Status} {data : List Byte} {done : Nat}
    {stamp : Word} (h : (s.line n).job = some (.slotWrite w status data done stamp)) :
    s.stampGrant n = s.modLine n fun l => { l with job := some (.slotWrite w status data done (s.slotStamp n w stamp)) } := by
  rw [State.stampGrant, h]

/-- Only the first slot write takes its stamp at the grant (R102). -/
theorem State.stampGrant_of_later {s : State} {n : LineId} {w : SlotWrite} {status : Status} {data : List Byte} {done : Nat}
    {stamp : Word} (h : (s.line n).job = some (.slotWrite w status data done stamp)) (hlater : w ≠ .oddGeneration) :
    s.stampGrant n = s := by
  have hstamp : s.slotStamp n w stamp = stamp := by
    cases w with
    | oddGeneration => exact absurd rfl hlater
    | _ => rfl
  rw [State.stampGrant_of_slotWrite h, hstamp, ← h]
  exact State.modLine_self rfl

theorem State.stampGrant_of_other {s : State} {n : LineId}
    (h : ∀ w status data done stamp, (s.line n).job ≠ some (.slotWrite w status data done stamp)) : s.stampGrant n = s := by
  rw [State.stampGrant]
  split
  · next hjob => exact absurd hjob (h _ _ _ _ _)
  all_goals rfl

theorem State.atGrant_admin {s : State} {tag : Half} {w : AdminWrite} (h : s.admin = .writing tag w) :
    s.atGrant .adminWriter = s.setAdmin (.writing tag (s.readAtGrant w)) := by
  rw [State.atGrant, h]

theorem State.moverBurst_of_idle {s : State} {n : LineId} (h : (s.line n).engine ≠ .deliver) : s.moverBurst n = none := if_neg h

section

variable {s : State} {n : LineId} (hengine : (s.line n).engine = .deliver)

include hengine

theorem State.moverBurst_of_payload {a : Word} {remaining : Nat} {bytes : List Byte}
    (hjob : (s.line n).job = some (.payloadRead a remaining bytes)) :
    s.moverBurst n = if (s.line n).cutting then none else some (readBurst (.dataMover n) a remaining) := by
  rw [State.moverBurst, if_pos hengine, hjob]

theorem State.moverBurst_of_response {a : Word} {bytes : List Byte} {next : AfterWrite}
    (hjob : (s.line n).job = some (.responseWrite a bytes next)) :
    s.moverBurst n = if (s.line n).cutting then none else some (writeBurst (.dataMover n) a bytes) := by
  rw [State.moverBurst, if_pos hengine, hjob]

theorem State.moverBurst_of_slot {w : SlotWrite} {status : Status} {data : List Byte} {done : Nat} {stamp : Word}
    (hjob : (s.line n).job = some (.slotWrite w status data done stamp)) :
    s.moverBurst n = some (s.slotBurst n w status data done stamp) := by
  rw [State.moverBurst, if_pos hengine, hjob]

end

theorem State.captureBurst_of_none {s : State} (h : s.capture.writeQueue = [] ∨ s.capture.config = none) : s.captureBurst = none := by
  rw [State.captureBurst]
  rcases h with h | h
  · rw [h]
  · rw [h]
    cases s.capture.writeQueue <;> rfl

theorem State.captureBurst_of_head {s : State} {p : Placed} {rest : List Placed} {g : CaptureConfig}
    (hqueue : s.capture.writeQueue = p :: rest) (hconfig : s.capture.config = some g) :
    s.captureBurst = some (writeBurst .captureWriter (g.base + BitVec.ofNat 32 (p.nextBurst g.base).1) (p.nextBurst g.base).2) := by
  rw [State.captureBurst, hqueue, hconfig]

theorem Placed.nextBurst_of_pad {p : Placed} {at' length : Nat} (hpad : p.pad = some (at', length)) (hunwritten : p.padWritten = false)
    (base : Word) : p.nextBurst base = (at', padHeader length) := by
  rw [Placed.nextBurst, hpad, hunwritten]

theorem Placed.nextBurst_of_record {p : Placed} (h : p.pad = none ∨ p.padWritten = true) (base : Word) :
    p.nextBurst base =
      (p.offset + p.written, (p.bytes.drop p.written).take (roomAt (base + BitVec.ofNat 32 (p.offset + p.written)))) := by
  have hroom : roomAt (base + BitVec.ofNat 32 (p.offset + p.written)) = 64 - (base.toNat + (p.offset + p.written)) % 64 := by
    rw [roomAt_eq, BitVec.toNat_add, BitVec.toNat_ofNat]
    omega
  rw [hroom, Placed.nextBurst]
  rcases h with h | h
  · rw [h]
    rfl
  · rw [h]
    cases p.pad <;> rfl

theorem State.adminBurst_of_none {s : State} (h : ∀ tag w, s.admin ≠ .writing tag w) : s.adminBurst = none := by
  rw [State.adminBurst]
  split
  any_goals rfl
  all_goals next hadmin => exact absurd hadmin (h _ _)

/-- The first requester from the pointer on is granted, and a bus that is held, or not asked for, stays as it is. -/
theorem exec_busGrant_of_first {s : State} (hfree : s.busFree = true) {k j : Fin 10} {b : Burst} (hk : k = s.hbi.busPointer + j)
    (hasks : s.request k = some b) (hbefore : ∀ i : Fin 10, i < j → s.request (s.hbi.busPointer + i) = none) :
    exec .busGrant s = .next (s.grants k b) :=
  congrArg Host.Outcome.next (State.grantBus_of_next hfree (by rw [State.nextGrant_of_first (hk ▸ hasks) hbefore, hk]))

/-- Settles O19: the search from the pointer on, what each grant leaves at its requester, and each of the ten requests. -/
theorem busIsGrantedRoundRobin : Obligations.BusIsGrantedRoundRobin := by
  unfold Obligations.BusIsGrantedRoundRobin
  refine ⟨fun s => ⟨fun hheld => ?held, fun hburst hreset hdevice => ⟨fun hnone => ?nobody, fun k j b hk hasks hbefore => ?first⟩⟩,
    fun s => ⟨rfl, rfl, rfl, fun r => rfl, fun rest hrest => ?copyRest, fun n w status data done stamp hjob hlater => ?later,
      fun n hjob => ?other, fun tag a hadmin => ?placed, fun n status data done stamp hjob => ?stamped,
      fun tag k a shown hadmin => State.atGrant_admin hadmin, fun tag n a shown hadmin => State.atGrant_admin hadmin⟩, fun s => ?asked⟩
  case held =>
    refine congrArg Host.Outcome.next (State.grantBus_of_held (Bool.eq_false_iff.mpr fun hfree => ?_))
    obtain ⟨hburst, hreset, hdevice⟩ := (s.busFree_iff).mp hfree
    rw [hburst, hreset] at hheld
    simp [hdevice] at hheld
  case nobody => exact congrArg Host.Outcome.next (State.grantBus_of_none (State.nextGrant_of_none hnone))
  case first =>
    rw [← hk]
    exact exec_busGrant_of_first ((s.busFree_iff).mpr ⟨hburst, hreset, hdevice⟩) hk hasks hbefore
  case copyRest =>
    intro room
    exact congrArg (fun u => { s with ringUnit := u }) (State.shadowGrant_of_rest hrest)
  case later => exact State.stampGrant_of_later hjob hlater
  case other => exact State.stampGrant_of_other hjob
  case placed =>
    rw [State.atGrant_admin hadmin, State.readAtGrant, ← hadmin]
    rfl
  case stamped => exact State.stampGrant_of_slotWrite hjob
  case asked =>
    intro half word one room read write works faulted area
    have hwrite (owner : Requester) (a : Word) (bytes : List Byte) : some (writeBurst owner a bytes) = write owner a bytes :=
      congrArg some (writeBurst_eq owner a bytes)
    have hhalf (h : Half) : le16 h = half h.toNat := le16_eq h
    have hcount (k : Nat) : le16 (halfOf k) = half k := le16_halfOf k
    have hword (w : Word) : le32 w = word w.toNat := le32_eq w
    have harea : s.ringUnit.shadowArea = area := by
      rw [State.shadowArea_eq, RingFaultCause.code_eq, setWidth_eq_ofNat]
      simp only [hhalf]
      rfl
    have hworks : s.hbi.device.working = true ↔ works := DeviceState.working_eq_true_iff _
    have hworking (h : works) (b : Option Burst) : s.whenWorking b = b := State.whenWorking_of_working (hworks.mpr h) b
    have hidle (h : ¬works) (b : Option Burst) : s.whenWorking b = none :=
      State.whenWorking_of_not (Bool.eq_false_iff.mpr (mt hworks.mp h)) b
    refine ⟨fun h => if_pos h, fun h => if_neg h, fun h => ?noRing, fun r h => ?ring, fun r => State.ringToFetch_of_requested,
      State.ringToFetch_of_fallen, State.nextRing_of_none, fun j => State.nextRing_of_first, fun h => ⟨hidle h _, hidle h _, hidle h _⟩,
      fun hrest => ⟨fun hmark => ?unmarked, fun h hmark => ?fresh, ?copied⟩, fun rest hrest h => ?rest, fun h => ?noCompletion,
      fun c rest h hholding hroom => ?completion, fun n => ?mover, fun h => ?noCapture,
      fun p rest g h hqueue hconfig => ⟨fun at' length hpad hunwritten => ?pad, fun hpad => ?record⟩, State.adminBurst_of_none,
      fun tag k a shown hadmin => ?station, fun tag n a shown hadmin => ?line, fun tag a hadmin => ?slot⟩
    case noRing => exact congrArg (Option.map s.fetchBurst) h
    case ring =>
      refine (congrArg (Option.map s.fetchBurst) h).trans ?_
      rw [Option.map_some, State.fetchBurst, recordAddress, Nat.mul_comm]
    case unmarked =>
      have hnone : s.shadowBurst = none := by
        rw [State.shadowBurst, hrest]
        simp only [hmark, Bool.false_eq_true, if_false]
      exact (congrArg s.whenWorking hnone).trans s.whenWorking_none
    case fresh =>
      have hburst : s.shadowBurst = write .shadowWriter s.ringUnit.shadowAddress area := by
        rw [← hwrite, ← harea, State.shadowBurst, hrest]
        simp only [hmark, if_true]
      exact (hworking h _).trans hburst
    case copied =>
      rw [← harea]
      exact congrArg (fun u => { s with ringUnit := u }) (State.shadowGrant_of_new hrest)
    case rest =>
      refine (hworking h _).trans ?_
      rw [← hwrite, State.shadowBurst, hrest]
    case noCompletion =>
      have hnone : s.completionBurst = none := by
        rw [State.completionBurst]
        split
        · next hholding =>
          rcases h with h | h
          · rw [h] at hholding
            cases hholding
          · exact if_neg (mt of_decide_eq_true h.not_gt)
        · rfl
      exact (congrArg s.whenWorking hnone).trans s.whenWorking_none
    case completion =>
      refine (hworking h _).trans ?_
      rw [State.completionBurst, hholding]
      refine (if_pos (decide_eq_true hroom)).trans ?_
      rw [recordAddress, Nat.mul_comm]
    case mover =>
      intro l asks
      have hasks : asks = s.moverBurst n := s.request_mover n
      refine ⟨fun hengine => hasks.trans (State.moverBurst_of_idle hengine), fun a remaining bytes hengine hjob => ?payload,
        fun a bytes next hengine hjob => ?response, fun w status payload done stamp x id hengine hjob hexchange horigin => ?slotWrites⟩
      case payload =>
        have hburst := hasks.trans (State.moverBurst_of_payload hengine hjob)
        exact ⟨fun hcut => hburst.trans (if_pos hcut), fun hcut => hburst.trans (if_neg (Bool.eq_false_iff.mp hcut))⟩
      case response =>
        have hburst := hasks.trans (State.moverBurst_of_response hengine hjob)
        exact ⟨fun hcut => hburst.trans (if_pos hcut),
          fun hcut => hburst.trans ((if_neg (Bool.eq_false_iff.mp hcut)).trans (hwrite ..))⟩
      case slotWrites =>
        intro p
        have hburst := hasks.trans (State.moverBurst_of_slot hengine hjob)
        have hp : s.poll (s.line n).pollId = p := congrArg s.poll (Line.pollId_of_exchange hexchange horigin)
        refine ⟨fun hw => ?_, fun hw => ?_, fun hw => ?_⟩
        · rw [hburst, ← hword, ← hwrite, ← hp]
          rcases hw with rfl | rfl <;> rfl
        · rw [hburst, ← hwrite, ← hp, hw]
          rfl
        · rw [hburst, ← hword, ← hcount, ← hwrite, ← hp, hw]
          rfl
    case noCapture => exact (congrArg s.whenWorking (State.captureBurst_of_none h)).trans s.whenWorking_none
    case pad =>
      refine (hworking h _).trans ((State.captureBurst_of_head hqueue hconfig).trans ?_)
      rw [Placed.nextBurst_of_pad hpad hunwritten, ← hwrite]
      rfl
    case record =>
      refine (hworking h _).trans ((State.captureBurst_of_head hqueue hconfig).trans ?_)
      rw [Placed.nextBurst_of_record hpad, writeBurst_take, ← hwrite]
    case station =>
      intro st
      have hburst : s.adminBurst = some (writeBurst .adminWriter a st.record) := by rw [State.adminBurst, hadmin]
      refine hburst.trans ?_
      rw [← hwrite, Station.record_eq, hcount, hcount]
      rfl
    case line =>
      intro l
      have hburst : s.adminBurst = some (writeBurst .adminWriter a (l.record (s.ringFaulted n))) := by rw [State.adminBurst, hadmin]
      refine hburst.trans ?_
      rw [← hwrite, Line.record, Engine.code_eq, hword]
      simp only [hcount]
      rfl
    case slot =>
      have hburst : s.adminBurst = some (writeBurst .adminWriter a.slotAddress freshSlotHeader) := by rw [State.adminBurst, hadmin]
      refine hburst.trans ?_
      rw [← hwrite]
      rfl

end Sys2Proof.Machine
end

section
/-! PROOFS. The entry to FAULTED (R43, R158, R159, R187): what each of its steps may touch, at the engines, at a deferred command and at
the blocks. -/

namespace Sys2Proof.Machine

/-! ### The entry to FAULTED at the engines and at a deferred command (R43, R158, R159, R187) -/

/-- A line through the entry to FAULTED: its settings, counts and latches stay, an OFF engine stays OFF, an exchange only leaves. -/
structure Line.FaultKeeps (l m : Line) : Prop where
  config : m.config = l.config
  counters : m.counters = l.counters
  breakFlag : m.breakFlag = l.breakFlag
  eventJam : m.eventJam = l.eventJam
  eventBreak : m.eventBreak = l.eventBreak
  eventOverrun : m.eventOverrun = l.eventOverrun
  cycleTimer : m.cycleTimer = l.cycleTimer
  followUp : m.followUp = l.followUp
  prefetched : m.prefetched = l.prefetched
  off : l.engine = .off → m.engine = .off
  exchange : m.exchange = none ∨ m.exchange = l.exchange

theorem Line.FaultKeeps.refl (l : Line) : l.FaultKeeps l := ⟨rfl, rfl, rfl, rfl, rfl, rfl, rfl, rfl, rfl, id, .inr rfl⟩

theorem Line.FaultKeeps.trans {l m o : Line} (h : l.FaultKeeps m) (k : m.FaultKeeps o) : l.FaultKeeps o where
  config := k.config.trans h.config
  counters := k.counters.trans h.counters
  breakFlag := k.breakFlag.trans h.breakFlag
  eventJam := k.eventJam.trans h.eventJam
  eventBreak := k.eventBreak.trans h.eventBreak
  eventOverrun := k.eventOverrun.trans h.eventOverrun
  cycleTimer := k.cycleTimer.trans h.cycleTimer
  followUp := k.followUp.trans h.followUp
  prefetched := k.prefetched.trans h.prefetched
  off := fun e => k.off (h.off e)
  exchange := k.exchange.elim .inl fun e => h.exchange.imp e.trans e.trans

/-- The command that waits, if any, is no HOLD STATION or REMOVE STATION of a slot. -/
def Admin.Leaves (a : Admin) (k : SlotId) : Prop := ∀ tag, a ≠ .deferred tag (.holdStation k) ∧ a ≠ .deferred tag (.removeStation k)

/-- From s to t, in FAULTED, exchanges of lines in P have ended or been marked, and a deferred command may have applied. -/
structure State.FaultsAt (P : LineId → Prop) (s t : State) : Prop where
  frame : t = { s with lines := t.lines, polls := t.polls, stations := t.stations, admin := t.admin, capture := t.capture }
  keeps : ∀ m, (s.line m).FaultKeeps (t.line m)
  line : ∀ m, ¬P m → t.line m = { s.line m with pollList := (t.line m).pollList }
  poll : ∀ id, (∀ m x, P m → (s.line m).exchange = some x → x.origin ≠ .poll id) → t.poll id = s.poll id
  free : ∀ id, (s.poll id).state = .free → (t.poll id).state = .free
  station : ∀ k, s.admin.Leaves k → (∀ m x, P m → (s.line m).exchange = some x → x.station ≠ some k) → t.station k = s.station k
  busy : ∀ k, (s.station k).busy = false → (t.station k).busy = false
  admin : t.admin = s.admin ∨ t.admin = .idle ∧ ∀ tag w, s.admin = .deferred tag w → w.ready t = true
  writing : ∀ tag w, s.admin = .writing tag w → s.burstOf .adminWriter = true → t.admin = s.admin
  captureKept : (∀ tag g, s.admin ≠ .deferred tag (.setCapture g)) ∨ t.admin = s.admin → t.capture = s.capture
  captureSet : ∀ tag g, s.admin = .deferred tag (.setCapture g) → t.admin = .idle → t.capture = s.capture.reconfigure g
  reserved : t.capture.reserved = s.capture.reserved
  writeQueue : t.capture.writeQueue = s.capture.writeQueue

namespace State.FaultsAt

variable {P Q : LineId → Prop} {s t u : State} {n : LineId}

theorem refl (P : LineId → Prop) (s : State) : State.FaultsAt P s s where
  frame := rfl
  keeps m := .refl _
  line _ _ := rfl
  poll _ _ := rfl
  free _ h := h
  station _ _ _ := rfl
  busy _ h := h
  admin := .inl rfl
  writing _ _ _ _ := rfl
  captureKept _ := rfl
  captureSet tag g h k := by
    rw [h] at k
    cases k
  reserved := rfl
  writeQueue := rfl

/-- What has come to be so that a deferred command applies, stays so. -/
theorem ready (h : State.FaultsAt P s t) {w : AdminWait} (hready : w.ready s = true) : w.ready t = true := by
  cases w with
  | stopLine n => exact beq_iff_eq.mpr ((h.keeps n).off (beq_iff_eq.mp hready))
  | holdStation k => exact (Bool.not_eq_true' _).mpr (h.busy k ((Bool.not_eq_true' _).mp hready))
  | removeStation k => exact (Bool.not_eq_true' _).mpr (h.busy k ((Bool.not_eq_true' _).mp hready))
  | deletePoll id => exact beq_iff_eq.mpr (h.free id (beq_iff_eq.mp hready))
  | setCapture g =>
    refine Eq.trans ?_ hready
    rw [AdminWait.ready, AdminWait.ready, h.reserved, h.writeQueue]

theorem leaves (h : State.FaultsAt P s t) {k : SlotId} (hleaves : s.admin.Leaves k) : t.admin.Leaves k := by
  rcases h.admin with e | ⟨e, -⟩
  · rwa [e]
  · rw [e]
    exact fun tag => ⟨by nofun, by nofun⟩

theorem hbi (h : State.FaultsAt P s t) : t.hbi = s.hbi := (congrArg State.hbi h.frame :)

theorem burst (h : State.FaultsAt P s t) (r : Requester) : t.burstOf r = s.burstOf r := by
  rw [State.burstOf, State.burstOf, h.hbi]

/-- An exchange that is still there was there. -/
theorem exchange (h : State.FaultsAt P s t) {m : LineId} {x : Exchange} (hx : (t.line m).exchange = some x) :
    (s.line m).exchange = some x := by
  rcases (h.keeps m).exchange with e | e
  · rw [e] at hx
    cases hx
  · rwa [← e]

theorem trans (h : State.FaultsAt P s t) (k : State.FaultsAt P t u) : State.FaultsAt P s u where
  frame := by
    rw [k.frame, h.frame]
  keeps m := (h.keeps m).trans (k.keeps m)
  line m hm := by
    rw [k.line m hm, h.line m hm]
  poll id hid := (k.poll id fun m x hm hx => hid m x hm (h.exchange hx)).trans (h.poll id hid)
  free id hid := k.free id (h.free id hid)
  station j hj hothers := (k.station j (h.leaves hj) fun m x hm hx => hothers m x hm (h.exchange hx)).trans (h.station j hj hothers)
  busy j hj := k.busy j (h.busy j hj)
  admin := by
    rcases h.admin with e | ⟨e, hready⟩
    · rcases k.admin with f | ⟨f, hlater⟩
      · exact .inl (f.trans e)
      · exact .inr ⟨f, fun tag w hw => hlater tag w (e.trans hw)⟩
    · refine .inr ⟨k.admin.elim (fun f => f.trans e) And.left, fun tag w hw => k.ready (hready tag w hw)⟩
  writing tag w hw hburst := by
    have e := h.writing tag w hw hburst
    exact (k.writing tag w (e.trans hw) ((h.burst _).trans hburst)).trans e
  captureKept hkept := by
    have hsame (hboth : (∀ tag g, s.admin ≠ .deferred tag (.setCapture g)) ∧ (∀ tag g, t.admin ≠ .deferred tag (.setCapture g)) ∨
        t.admin = s.admin ∧ u.admin = t.admin) : u.capture = s.capture :=
      hboth.elim (fun ⟨hs, ht⟩ => (k.captureKept (.inl ht)).trans (h.captureKept (.inl hs)))
        fun ⟨ht, hu⟩ => (k.captureKept (.inr hu)).trans (h.captureKept (.inr ht))
    rcases h.admin with e | ⟨e, -⟩
    · exact hsame (hkept.imp (fun hs => ⟨hs, fun tag g => e ▸ hs tag g⟩) fun hu => ⟨e, hu.trans e.symm⟩)
    · have hu : u.admin = .idle := k.admin.elim (fun f => f.trans e) And.left
      have hs (tag : Half) (g : Option CaptureConfig) : s.admin ≠ .deferred tag (.setCapture g) :=
        hkept.elim (fun hs => hs tag g) fun f => by
          rw [← f, hu]
          nofun
      exact hsame (.inl ⟨hs, fun tag g => by rw [e]; nofun⟩)
  captureSet tag g hg hidle := by
    rcases h.admin with e | ⟨e, -⟩
    · rw [k.captureSet tag g (e.trans hg) hidle, h.captureKept (.inr e)]
    · rw [k.captureKept (.inr (hidle.trans e.symm)), h.captureSet tag g hg e]
  reserved := k.reserved.trans h.reserved
  writeQueue := k.writeQueue.trans h.writeQueue

theorem mono (h : State.FaultsAt P s t) (hpq : ∀ m, P m → Q m) : State.FaultsAt Q s t where
  frame := h.frame
  keeps := h.keeps
  line m hm := h.line m fun hp => hm (hpq m hp)
  poll id hid := h.poll id fun m x hm => hid m x (hpq m hm)
  free := h.free
  station j hj hothers := h.station j hj fun m x hm => hothers m x (hpq m hm)
  busy := h.busy
  admin := h.admin
  writing := h.writing
  captureKept := h.captureKept
  captureSet := h.captureSet
  reserved := h.reserved
  writeQueue := h.writeQueue

/-- A step at the blocks that hold lines, entries and stations. -/
theorem ofBlocks (frame : t = { s with lines := t.lines, polls := t.polls, stations := t.stations })
    (keeps : ∀ m, (s.line m).FaultKeeps (t.line m)) (line : ∀ m, ¬P m → t.line m = { s.line m with pollList := (t.line m).pollList })
    (poll : ∀ id, (∀ m x, P m → (s.line m).exchange = some x → x.origin ≠ .poll id) → t.poll id = s.poll id)
    (free : ∀ id, (s.poll id).state = .free → (t.poll id).state = .free)
    (station : ∀ k, (∀ m x, P m → (s.line m).exchange = some x → x.station ≠ some k) → t.station k = s.station k)
    (busy : ∀ k, (s.station k).busy = false → (t.station k).busy = false) : State.FaultsAt P s t :=
  have hadmin : t.admin = s.admin := (congrArg State.admin frame :)
  have hcapture : t.capture = s.capture := (congrArg State.capture frame :)
  { frame := by
      rw [frame]
    keeps, line, poll, free, busy
    station := fun k _ => station k
    admin := .inl hadmin
    writing := fun _ _ _ _ => hadmin
    captureKept := fun _ => hcapture
    captureSet := fun tag g h k => by
      rw [hadmin, h] at k
      cases k
    reserved := congrArg Capture.reserved hcapture
    writeQueue := congrArg Capture.writeQueue hcapture }

/-- A station entry whose exchange ends: it is not set busy. -/
theorem stationOf {x : Exchange} {k : SlotId} (hx : (s.line n).exchange = some x) (hk : x.station = some k) {f : Station → Station}
    (hbusy : ∀ st, st.busy = false → (f st).busy = false) : State.FaultsAt (· = n) s (s.modStation k f) := by
  refine ofBlocks rfl (fun m => .refl _) (fun _ _ => rfl) (fun _ _ => rfl) (fun _ h => h) (fun j hothers => ?_) fun j hj => ?_
  · rw [State.modStation_station, if_neg fun e => hothers n x rfl hx (by rw [hk, e])]
  · rw [State.modStation_station]
    split
    · exact hbusy _ hj
    · exact hj

/-- An update of one line. -/
theorem lineOf {f : Line → Line} (hkeeps : (s.line n).FaultKeeps (f (s.line n))) : State.FaultsAt (· = n) s (s.modLine n f) := by
  refine ofBlocks rfl (fun m => ?_) (fun m hm => ?_) (fun _ _ => rfl) (fun _ h => h) (fun _ _ => rfl) fun _ h => h
  · rw [State.modLine_line]
    split
    · next e => exact e ▸ hkeeps
    · exact .refl _
  · rw [State.modLine_line, if_neg (Ne.symm hm)]

/-- A poll entry settled as its exchange is left. -/
theorem pollOf {x : Exchange} {id : PollId} (hx : (s.line n).exchange = some x) (hid : x.origin = .poll id) :
    State.FaultsAt (· = n) s (s.settlePoll id) := by
  have hother {j : PollId} (hothers : ∀ m x, m = n → (s.line m).exchange = some x → x.origin ≠ .poll j) : id ≠ j :=
    fun e => hothers n x rfl hx (by rw [hid, e])
  cases hstate : (s.poll id).state with
  | inFlight =>
    rw [State.settlePoll_of_inFlight hstate]
    refine ofBlocks rfl (fun m => .refl _) (fun _ _ => rfl) (fun j hothers => ?_) (fun j hfree => ?_) (fun _ _ => rfl) fun _ h => h
    · rw [State.modPoll_poll, if_neg (hother hothers)]
    · rw [State.modPoll_poll]
      split
      · next e =>
        rw [← e, hstate] at hfree
        cases hfree
      · exact hfree
  | deleting =>
    rw [State.settlePoll_of_deleting hstate]
    refine ofBlocks rfl (fun m => ?_) (fun m _ => ?_) (fun j hothers => ?_) (fun j hfree => ?_) (fun _ _ => rfl) fun _ h => h
    · rw [State.freePoll_line]
      split
      · exact ⟨rfl, rfl, rfl, rfl, rfl, rfl, rfl, rfl, rfl, fun e => e, .inr rfl⟩
      · exact .refl _
    · rw [State.freePoll_line]
      split <;> rfl
    · rw [State.freePoll_poll, if_neg (hother hothers)]
    · rw [State.freePoll_poll]
      split
      · rfl
      · exact hfree
  | _ =>
    rw [State.settlePoll, hstate]
    exact .refl _ s

/-- A deferred command has applied: it has touched at most its own station, or the Capture Unit. -/
theorem ofApplied {tag : Half} {w : AdminWait} (hadmin : s.admin = .deferred tag w)
    (frame : t = { s with stations := t.stations, admin := .idle, capture := t.capture }) (hready : w.ready t = true)
    (station : ∀ k, s.admin.Leaves k → t.station k = s.station k)
    (busy : ∀ k, (s.station k).busy = false → (t.station k).busy = false)
    (kept : (∀ g, w ≠ .setCapture g) → t.capture = s.capture)
    (set : ∀ g, w = .setCapture g → t.capture = s.capture.reconfigure g)
    (reserved : t.capture.reserved = s.capture.reserved) (writeQueue : t.capture.writeQueue = s.capture.writeQueue) :
    State.FaultsAt P s t :=
  have hidle : t.admin = .idle := (congrArg State.admin frame :)
  have hline (m : LineId) : t.line m = s.line m := State.line_congr (congrArg State.lines frame :) m
  have hpoll (id : PollId) : t.poll id = s.poll id := State.poll_congr (congrArg State.polls frame :) id
  { frame := by
      rw [frame]
    keeps := fun m => by
      rw [hline]
      exact .refl _
    line := fun m _ => by
      rw [hline]
    poll := fun id _ => hpoll id
    free := fun id hfree => by
      rwa [hpoll]
    station := fun k hk _ => station k hk
    busy
    admin := .inr ⟨hidle, fun tag' w' h => by
      rw [hadmin] at h
      cases h
      exact hready⟩
    writing := fun tag' w' h => by
      rw [hadmin] at h
      cases h
    captureKept := fun h => kept fun g hg => by
      rcases h with h | h
      · exact h tag g (hg ▸ hadmin)
      · rw [hadmin, hidle] at h
        cases h
    captureSet := fun tag' g h _ => set g (by
      rw [hadmin] at h
      cases h
      rfl)
    reserved, writeQueue }

end State.FaultsAt

/-- In FAULTED, with no follow-up entry and nothing at the Capture Unit: what R187 leaves before the engines are looked at. -/
structure State.FaultQuiet (s : State) : Prop where
  device : s.hbi.device = .faulted
  followUp : ∀ m, (s.line m).followUp = []
  reserved : s.capture.reserved = 0
  writeQueue : s.capture.writeQueue = []

theorem State.FaultsAt.quiet {P : LineId → Prop} {s t : State} (h : State.FaultsAt P s t) (hs : s.FaultQuiet) : t.FaultQuiet where
  device := (congrArg Hbi.device h.hbi).trans hs.device
  followUp m := ((h.keeps m).followUp).trans (hs.followUp m)
  reserved := h.reserved.trans hs.reserved
  writeQueue := h.writeQueue.trans hs.writeQueue

/-- In FAULTED no completion is written (R159). -/
theorem State.adminClaim_of_faulted {s : State} (h : s.hbi.device = .faulted) (c : Completion) : s.adminClaim c = s.setAdmin .idle :=
  if_pos h

theorem State.dropStation_of_empty {s : State} (h : ∀ m, (s.line m).followUp = []) (k : SlotId) : s.dropStation k = s := by
  rw [State.dropStation, State.dropFollowUps, h, List.filter_nil, List.foldl_nil]
  exact State.modLine_self (by rw [h, List.filter_nil, ← h (s.station k).line])

theorem Station.hold_busy (st : Station) : st.hold.busy = st.busy := by
  rw [Station.hold]
  split <;> rfl

/-- A deferred command whose condition holds applies in FAULTED at its own part, with no completion (R158, R159). -/
theorem State.FaultQuiet.applied {s : State} (hs : s.FaultQuiet) (P : LineId → Prop) {tag : Half} {w : AdminWait}
    (hadmin : s.admin = .deferred tag w) (hready : w.ready s = true) : State.FaultsAt P s ((w.apply s).setAdmin .idle) := by
  have hstation {k : SlotId} {f : Station → Station} (hbusy : (f (s.station k)).busy = (s.station k).busy)
      (hw : w = .holdStation k ∨ w = .removeStation k) (hidle : (s.station k).busy = false) :
      State.FaultsAt P s ((s.modStation k f).setAdmin .idle) := by
    have hfinal (j : SlotId) (hj : (s.station j).busy = false) : ((s.modStation k f).station j).busy = false := by
      rw [State.modStation_station]
      split
      · next e =>
        subst e
        exact hbusy.trans hj
      · exact hj
    refine .ofApplied hadmin rfl ?_ (fun j hj => ?_) hfinal (fun _ => rfl) (fun g hg => ?_) rfl rfl
    · rcases hw with rfl | rfl
      all_goals exact (Bool.not_eq_true' _).mpr (hfinal k hidle)
    · refine (State.modStation_station ..).trans (if_neg fun e => ?_)
      subst e
      rcases hw with rfl | rfl
      · exact (hj tag).1 hadmin
      · exact (hj tag).2 hadmin
    · rcases hw with rfl | rfl <;> cases hg
  cases w with
  | stopLine n => exact .ofApplied hadmin rfl hready (fun _ _ => rfl) (fun _ h => h) (fun _ => rfl) (by nofun) rfl rfl
  | deletePoll id => exact .ofApplied hadmin rfl hready (fun _ _ => rfl) (fun _ h => h) (fun _ => rfl) (by nofun) rfl rfl
  | setCapture g =>
    refine .ofApplied hadmin rfl hready (fun _ _ => rfl) (fun _ h => h) (fun h => absurd rfl (h g)) (fun f hf => ?_) rfl rfl
    cases hf
    rfl
  | holdStation k =>
    have happly : (AdminWait.holdStation k).apply s = s.modStation k Station.hold := by
      rw [AdminWait.apply, State.applyHold, State.dropStation_of_empty hs.followUp]
    rw [happly]
    exact hstation (Station.hold_busy _) (.inl rfl) ((Bool.not_eq_true' _).mp hready)
  | removeStation k =>
    have happly : (AdminWait.removeStation k).apply s = s.modStation k fun _ => .absent := by
      rw [AdminWait.apply, State.applyRemove, State.dropStation_of_empty hs.followUp]
    rw [happly]
    have hidle := (Bool.not_eq_true' _).mp hready
    exact hstation hidle.symm (.inr rfl) hidle

theorem State.FaultQuiet.deferredApply_of_ready {s : State} (hs : s.FaultQuiet) {tag : Half} {w : AdminWait}
    (hadmin : s.admin = .deferred tag w) (hready : w.ready s = true) : s.deferredApply = (w.apply s).setAdmin .idle :=
  (State.deferredApply_of_ready hadmin hready).trans (State.adminClaim_of_faulted (s := w.apply s)
    ((hs.applied (fun _ => True) hadmin hready).quiet hs).device _)

/-- The test of a deferred command, in FAULTED (R158, R159). -/
theorem State.FaultQuiet.deferredApply {s : State} (hs : s.FaultQuiet) (P : LineId → Prop) : State.FaultsAt P s s.deferredApply := by
  by_cases h : ∃ tag w, s.admin = .deferred tag w ∧ w.ready s = true
  · obtain ⟨tag, w, hadmin, hready⟩ := h
    rw [hs.deferredApply_of_ready hadmin hready]
    exact hs.applied P hadmin hready
  · rw [State.deferredApply_of_notReady fun tag w hadmin => Bool.eq_false_iff.mpr fun hready => h ⟨tag, w, hadmin, hready⟩]
    exact .refl P s

/-! ### An exchange that FAULTED ends (R43) -/

/-- Step 1 of the exchange end, as FAULTED takes it: unless it has run already (R43). -/
def State.faultAccounted (s : State) (x : Exchange) : State := if x.status.isSome then s else s.accountExchange x .aborted

/-- A station whose exchange FAULTED ends (R43, R55): resync set when a frame had been sent and step 1 had not run. -/
def Station.resyncBy (x : Exchange) (st : Station) : Station := { st with resync := st.resync || (x.frameSent && x.status.isNone) }

/-- The same with the busy flag clear. -/
def Station.faultEnded (x : Exchange) (st : Station) : Station :=
  { st with busy := false, resync := st.resync || (x.frameSent && x.status.isNone) }

theorem Station.exchangeEnd_aborted (st : Station) (frameSent : Bool) :
    st.exchangeEnd .aborted frameSent = { st with resync := st.resync || frameSent } := by
  rw [Station.exchangeEnd_of_neutral rfl, Station.resyncDecision]
  cases frameSent
  · simp
  · simp [setsResync]

section

variable {s : State} {n : LineId} {x : Exchange} {k : SlotId}

theorem State.faultAccounted_of_station (hdevice : s.hbi.device = .faulted) (hk : x.station = some k) :
    s.faultAccounted x = s.modStation k (Station.resyncBy x) := by
  rw [State.faultAccounted]
  cases hstatus : x.status with
  | some status =>
    rw [Option.isSome_some, if_pos rfl]
    refine (State.modStation_self ?_).symm
    rw [Station.resyncBy, hstatus]
    simp
  | none =>
    have hend (st : Station) : st.exchangeEnd .aborted x.frameSent = st.resyncBy x := by
      rw [Station.exchangeEnd_aborted, Station.resyncBy, hstatus]
      simp
    rw [Option.isSome_none, if_neg Bool.false_ne_true, State.accountExchange_of_station s hk]
    simp only [hend]
    exact State.postNotices_of_refused (.inr hdevice)

theorem State.faultAccounted_of_broadcast (hk : x.station = none) : s.faultAccounted x = s := by
  rw [State.faultAccounted, State.accountExchange_of_none s hk]
  exact ite_self _

theorem State.faultEnd_of_some (hx : (s.line n).exchange = some x) : s.faultEnd n = (s.faultAccounted x).enterOff n := by
  rw [State.faultEnd, hx]
  rfl

theorem State.faultEnd_of_none (hx : (s.line n).exchange = none) : s.faultEnd n = (s.modLine n Line.off).deferredApply := by
  rw [State.faultEnd, hx]
  exact State.enterOff_of_none hx

/-- The exchange of a poll entry ends in FAULTED. -/
theorem State.faultEnd_of_poll (hdevice : s.hbi.device = .faulted) (hx : (s.line n).exchange = some x) (hk : x.station = some k)
    {id : PollId} (hid : x.origin = .poll id) :
    s.faultEnd n = (((s.modStation k (Station.faultEnded x)).settlePoll id).modLine n Line.off).deferredApply := by
  have hleave : (s.modStation k (Station.resyncBy x)).leaveExchange n = (s.modStation k (Station.faultEnded x)).settlePoll id := by
    rw [State.leaveExchange_of_poll (s := s.modStation k _) hx hk hid, State.modStation_modStation]
    rfl
  rw [State.faultEnd_of_some hx, State.faultAccounted_of_station hdevice hk, State.enterOff, hleave]

/-- An exchange with a station from another source ends in FAULTED. -/
theorem State.faultEnd_of_other (hdevice : s.hbi.device = .faulted) (hx : (s.line n).exchange = some x) (hk : x.station = some k)
    (horigin : ∀ id, x.origin ≠ .poll id) :
    s.faultEnd n = ((s.modStation k (Station.faultEnded x)).modLine n Line.off).deferredApply := by
  have hleave : (s.modStation k (Station.resyncBy x)).leaveExchange n = s.modStation k (Station.faultEnded x) := by
    rw [State.leaveExchange_of_other (s := s.modStation k _) hx hk horigin, State.modStation_modStation]
    rfl
  rw [State.faultEnd_of_some hx, State.faultAccounted_of_station hdevice hk, State.enterOff, hleave]

/-- A broadcast ends in FAULTED. -/
theorem State.faultEnd_of_broadcast (hx : (s.line n).exchange = some x) (hk : x.station = none) (horigin : ∀ id, x.origin ≠ .poll id) :
    s.faultEnd n = (s.modLine n Line.off).deferredApply := by
  rw [State.faultEnd_of_some hx, State.faultAccounted_of_broadcast hk, State.enterOff, State.leaveExchange_of_broadcast hx hk horigin]

end

/-! ### The end of an exchange as a step of the entry to FAULTED -/

theorem Line.off_faultKeeps (l : Line) : l.FaultKeeps l.off := ⟨rfl, rfl, rfl, rfl, rfl, rfl, rfl, rfl, rfl, fun _ => rfl, .inl rfl⟩

namespace State.FaultQuiet

variable {s : State} {n : LineId}

theorem faultAccounted (hs : s.FaultQuiet) {x : Exchange} (hx : (s.line n).exchange = some x) :
    State.FaultsAt (· = n) s (s.faultAccounted x) := by
  cases hk : x.station with
  | none =>
    rw [State.faultAccounted_of_broadcast hk]
    exact .refl _ s
  | some k =>
    rw [State.faultAccounted_of_station hs.device hk]
    exact .stationOf hx hk fun _ h => h

theorem faultAccounted_lines (hs : s.FaultQuiet) (x : Exchange) : (s.faultAccounted x).lines = s.lines := by
  cases hk : x.station with
  | none => rw [State.faultAccounted_of_broadcast hk]
  | some k =>
    rw [State.faultAccounted_of_station hs.device hk]
    rfl

end State.FaultQuiet

theorem State.settlePoll_line (s : State) (id : PollId) (m : LineId) :
    (s.settlePoll id).line m = { s.line m with pollList := ((s.settlePoll id).line m).pollList } := by
  cases hstate : (s.poll id).state with
  | inFlight =>
    rw [State.settlePoll_of_inFlight hstate]
    rfl
  | deleting =>
    rw [State.settlePoll_of_deleting hstate, State.freePoll_line]
    split <;> rfl
  | _ =>
    rw [State.settlePoll, hstate]

theorem State.settlePoll_stations (s : State) (id : PollId) : (s.settlePoll id).stations = s.stations := by
  cases hstate : (s.poll id).state with
  | inFlight =>
    rw [State.settlePoll_of_inFlight hstate]
    rfl
  | deleting =>
    rw [State.settlePoll_of_deleting hstate]
    rfl
  | _ => rw [State.settlePoll, hstate]

theorem State.leaveExchange_of_poll_only {s : State} {n : LineId} {x : Exchange} {id : PollId}
    (hexchange : (s.line n).exchange = some x) (hstation : x.station = none) (horigin : x.origin = .poll id) :
    s.leaveExchange n = s.settlePoll id := by
  rw [State.leaveExchange, hexchange]
  simp only [hstation, horigin]

/-- The engine leaves its exchange: the station's busy flag clears, a poll entry is settled. -/
theorem State.leaveExchange_faultsAt (s : State) (n : LineId) : State.FaultsAt (· = n) s (s.leaveExchange n) := by
  cases hx : (s.line n).exchange with
  | none =>
    rw [State.leaveExchange_of_none hx]
    exact .refl _ s
  | some x =>
    cases hk : x.station with
    | none =>
      cases horigin : x.origin with
      | poll id =>
        rw [State.leaveExchange_of_poll_only hx hk horigin]
        exact .pollOf hx horigin
      | _ =>
        rw [State.leaveExchange_of_broadcast hx hk (by rw [horigin]; nofun)]
        exact .refl _ s
    | some k =>
      have hfree : State.FaultsAt (· = n) s (s.modStation k fun st => { st with busy := false }) := .stationOf hx hk fun _ _ => rfl
      cases horigin : x.origin with
      | poll id =>
        rw [State.leaveExchange_of_poll hx hk horigin]
        exact hfree.trans (.pollOf (s := s.modStation k _) hx horigin)
      | _ =>
        rw [State.leaveExchange_of_other hx hk (by rw [horigin]; nofun)]
        exact hfree

theorem State.leaveExchange_line (s : State) (n m : LineId) :
    (s.leaveExchange n).line m = { s.line m with pollList := ((s.leaveExchange n).line m).pollList } := by
  cases hx : (s.line n).exchange with
  | none => rw [State.leaveExchange_of_none hx]
  | some x =>
    cases hk : x.station with
    | none =>
      cases horigin : x.origin with
      | poll id =>
        rw [State.leaveExchange_of_poll_only hx hk horigin]
        exact s.settlePoll_line id m
      | _ => rw [State.leaveExchange_of_broadcast hx hk (by rw [horigin]; nofun)]
    | some k =>
      cases horigin : x.origin with
      | poll id =>
        rw [State.leaveExchange_of_poll hx hk horigin]
        exact State.settlePoll_line (s.modStation k _) id m
      | _ =>
        rw [State.leaveExchange_of_other hx hk (by rw [horigin]; nofun)]
        rfl

namespace State.FaultQuiet

variable {s : State} {n : LineId}

theorem enterOff (hs : s.FaultQuiet) : State.FaultsAt (· = n) s (s.enterOff n) := by
  have hleft := s.leaveExchange_faultsAt n
  have hoff : State.FaultsAt (· = n) (s.leaveExchange n) ((s.leaveExchange n).modLine n Line.off) := .lineOf (Line.off_faultKeeps _)
  exact (hleft.trans hoff).trans (((hleft.trans hoff).quiet hs).deferredApply _)

theorem enterOff_line (hs : s.FaultQuiet) :
    (s.enterOff n).line n = { (s.line n).off with pollList := ((s.enterOff n).line n).pollList } := by
  have hleft := s.leaveExchange_faultsAt n
  have hoff : State.FaultsAt (· = n) (s.leaveExchange n) ((s.leaveExchange n).modLine n Line.off) := .lineOf (Line.off_faultKeeps _)
  have hlast := (((hleft.trans hoff).quiet hs).deferredApply fun _ => False).line n not_false
  rw [State.modLine_line_self, s.leaveExchange_line n n] at hlast
  exact hlast

/-- An engine's exchange in FAULTED ends at its line, its station and its poll entry (R43). -/
theorem faultEnd (hs : s.FaultQuiet) : State.FaultsAt (· = n) s (s.faultEnd n) := by
  cases hx : (s.line n).exchange with
  | none =>
    have hoff : State.FaultsAt (· = n) s (s.modLine n Line.off) := .lineOf (Line.off_faultKeeps _)
    rw [State.faultEnd_of_none hx]
    exact hoff.trans ((hoff.quiet hs).deferredApply _)
  | some x =>
    rw [State.faultEnd_of_some hx]
    exact (hs.faultAccounted hx).trans ((hs.faultAccounted hx).quiet hs).enterOff

theorem faultEnd_line (hs : s.FaultQuiet) :
    (s.faultEnd n).line n = { (s.line n).off with pollList := ((s.faultEnd n).line n).pollList } := by
  cases hx : (s.line n).exchange with
  | none =>
    have hoff : State.FaultsAt (· = n) s (s.modLine n Line.off) := .lineOf (Line.off_faultKeeps _)
    have hlast := ((hoff.quiet hs).deferredApply fun _ => False).line n not_false
    rw [State.modLine_line_self] at hlast
    rw [State.faultEnd_of_none hx]
    exact hlast
  | some x =>
    have hlast := ((hs.faultAccounted hx).quiet hs).enterOff_line (n := n)
    rw [State.line_congr (hs.faultAccounted_lines x) n] at hlast
    rw [State.faultEnd_of_some hx]
    exact hlast

/-- The last steps of an exchange end leave the stations, with no command waiting for one of them. -/
theorem off_station {u v : State} {P : LineId → Prop} (hs : s.FaultQuiet) (h : State.FaultsAt P s u) (k : SlotId)
    (hleaves : s.admin.Leaves k) (hv : v = (u.modLine n Line.off).deferredApply) : v.station k = u.station k := by
  have hoff : State.FaultsAt (· = n) u (u.modLine n Line.off) := .lineOf (Line.off_faultKeeps _)
  rw [hv]
  exact ((hoff.quiet (h.quiet hs)).deferredApply fun _ => False).station k (hoff.leaves (h.leaves hleaves)) fun _ _ hf => hf.elim

/-- The station of the exchange that ends, with no command waiting for it. -/
theorem faultEnd_station (hs : s.FaultQuiet) {x : Exchange} {k : SlotId} (hx : (s.line n).exchange = some x) (hk : x.station = some k)
    (hleaves : s.admin.Leaves k) : (s.faultEnd n).station k = (s.station k).faultEnded x := by
  have hfirst : State.FaultsAt (· = n) s (s.modStation k (Station.faultEnded x)) := .stationOf hx hk fun _ _ => rfl
  by_cases horigin : ∃ id, x.origin = .poll id
  · obtain ⟨id, hid⟩ := horigin
    have hsettled := State.FaultsAt.pollOf (s := s.modStation k (Station.faultEnded x)) hx hid
    rw [hs.off_station (hfirst.trans hsettled) k hleaves (State.faultEnd_of_poll hs.device hx hk hid),
      State.station_congr (State.settlePoll_stations _ id), State.modStation_station_self]
  · rw [hs.off_station hfirst k hleaves (State.faultEnd_of_other hs.device hx hk fun id hid => horigin ⟨id, hid⟩),
      State.modStation_station_self]

/-! ### One line, and all of them (R43) -/

theorem faultLine (hs : s.FaultQuiet) : State.FaultsAt (· = n) s (State.faultLine n s) := by
  have hcut : State.FaultsAt (· = n) s (s.markCut n) := .lineOf ⟨rfl, rfl, rfl, rfl, rfl, rfl, rfl, rfl, rfl, id, .inr rfl⟩
  rw [State.faultLine]
  split
  · exact .refl _ s
  any_goals exact hs.faultEnd
  · exact hcut
  · exact hcut
  · split
    · exact hcut
    · exact hs.faultEnd

theorem foldl_faultLine {ns : List LineId} (hs : s.FaultQuiet) :
    State.FaultsAt (· ∈ ns) s (ns.foldl (fun t n => State.faultLine n t) s) := by
  induction ns generalizing s with
  | nil => exact .refl _ s
  | cons m ns ih =>
    exact (hs.faultLine.mono fun j hj => hj ▸ List.mem_cons_self).trans
      ((ih (hs.faultLine.quiet hs)).mono fun j hj => List.mem_cons_of_mem m hj)

/-- The steps of the other lines before and after one line's. -/
theorem foldl_faultLine_split {ns : List LineId} (hs : s.FaultQuiet) (hns : ns.Nodup) (hn : n ∈ ns) :
    ∃ a, State.FaultsAt (· ≠ n) s a ∧ State.FaultsAt (· ≠ n) (State.faultLine n a) (ns.foldl (fun t n => State.faultLine n t) s) := by
  induction ns generalizing s with
  | nil => cases hn
  | cons m ns ih =>
    have ⟨hm, hrest⟩ := List.nodup_cons.mp hns
    by_cases hmn : m = n
    · subst hmn
      exact ⟨s, .refl _ s, (foldl_faultLine (hs.faultLine.quiet hs)).mono fun j hj e => hm (e ▸ hj)⟩
    · obtain ⟨a, hbefore, hafter⟩ := ih (hs.faultLine.quiet hs) hrest (List.mem_of_ne_of_mem (Ne.symm hmn) hn)
      exact ⟨a, (hs.faultLine.mono fun j hj => hj ▸ hmn).trans hbefore, hafter⟩

end State.FaultQuiet

/-- The Admin Processor's entry to FAULTED: a claim is withdrawn, a write not yet granted is dropped (R159). -/
theorem State.faultAdmin_faultsAt (P : LineId → Prop) (s : State) : State.FaultsAt P s s.faultAdmin := by
  have hdrop (hwaits : ∀ tag w, s.admin ≠ .deferred tag w)
      (hwrites : ∀ tag w, s.admin = .writing tag w → s.burstOf .adminWriter = false) :
      State.FaultsAt P s (s.setAdmin .idle) :=
    { State.FaultsAt.refl P s with
      frame := rfl
      admin := .inr ⟨rfl, fun tag w h => absurd h (hwaits tag w)⟩
      writing := fun tag w h hburst => by
        rw [hwrites tag w h] at hburst
        cases hburst
      captureKept := fun _ => rfl
      captureSet := fun tag g h => absurd h (hwaits tag _) }
  rw [State.faultAdmin]
  split
  · exact .refl P s
  · exact .refl P s
  · next h => exact hdrop (by rw [h]; nofun) (by rw [h]; nofun)
  · next h =>
    split
    · exact .refl P s
    · next hburst => exact hdrop (by rw [h]; nofun) fun _ _ _ => Bool.eq_false_iff.mpr hburst

/-- The entry to FAULTED from the engines on. -/
def State.enginesFaulted (s : State) : State := ((s.forLines State.faultLine).faultAdmin).deferredApply

namespace State.FaultQuiet

variable {s : State}

theorem enginesFaulted (hs : s.FaultQuiet) : State.FaultsAt (fun _ => True) s s.enginesFaulted := by
  have hlines : State.FaultsAt (fun _ => True) s (s.forLines State.faultLine) := hs.foldl_faultLine.mono fun _ _ => trivial
  have hadmin := hlines.trans (State.faultAdmin_faultsAt _ _)
  exact hadmin.trans ((hadmin.quiet hs).deferredApply _)

/-- One line's own step, in the midst of the others'. -/
theorem enginesFaulted_split (hs : s.FaultQuiet) (n : LineId) :
    ∃ a, State.FaultsAt (· ≠ n) s a ∧ State.FaultsAt (· ≠ n) (State.faultLine n a) s.enginesFaulted := by
  obtain ⟨a, hbefore, hafter⟩ := hs.foldl_faultLine_split (ns := allLines) (by decide) (mem_allLines n)
  have hadmin := hafter.trans (State.faultAdmin_faultsAt _ _)
  have hquiet : a.FaultQuiet := hbefore.quiet hs
  exact ⟨a, hbefore, hadmin.trans ((hadmin.quiet (hquiet.faultLine.quiet hquiet)).deferredApply _)⟩

/-- A command that still waits after the test does so because its condition does not hold (R158). -/
theorem deferredApply_waits (hs : s.FaultQuiet) {tag : Half} {w : AdminWait} (h : s.deferredApply.admin = .deferred tag w) :
    w.ready s.deferredApply = false := by
  by_cases hready : ∃ tag w, s.admin = .deferred tag w ∧ w.ready s = true
  · obtain ⟨tag', w', hadmin, hready⟩ := hready
    rw [hs.deferredApply_of_ready hadmin hready] at h
    cases h
  · have hstays : s.deferredApply = s :=
      State.deferredApply_of_notReady fun tag w hadmin => Bool.eq_false_iff.mpr fun k => hready ⟨tag, w, hadmin, k⟩
    rw [hstays] at h ⊢
    exact Bool.eq_false_iff.mpr fun k => hready ⟨tag, w, h, k⟩

/-- A deferred command after the entry to FAULTED: done when its condition holds, waiting otherwise (R158, R159). -/
theorem enginesFaulted_admin_of_deferred (hs : s.FaultQuiet) {tag : Half} {w : AdminWait} (hadmin : s.admin = .deferred tag w) :
    s.enginesFaulted.admin = if w.ready s.enginesFaulted = true then .idle else s.admin := by
  have hlines : State.FaultsAt (fun _ => True) s (s.forLines State.faultLine) := hs.foldl_faultLine.mono fun _ _ => trivial
  have hquiet := (hlines.trans (State.faultAdmin_faultsAt _ _)).quiet hs
  rcases hs.enginesFaulted.admin with h | ⟨h, hready⟩
  · have hwaits : w.ready s.enginesFaulted = false := hquiet.deferredApply_waits (h.trans hadmin)
    rw [h, if_neg (Bool.eq_false_iff.mp hwaits)]
  · rw [h, if_pos (hready tag w hadmin)]

end State.FaultQuiet

/-! ### The entry to FAULTED at the blocks (R95, R119, R134, R187) -/

/-- A line at the device's entry to FAULTED: its work is gone and its cycle timer stopped (R95, R119). -/
def Line.workless (l : Line) : Line := { l with prefetched := [], followUp := [], cycleTimer := .stopped }

/-- Marks cleared line by line are cleared at the entries of those lines' lists. -/
theorem State.foldl_clearMarks (ns : List LineId) (s : State) :
    let t := ns.foldl (fun t n => State.clearMarks n t) s
    t = { s with polls := t.polls } ∧
      ∀ id, t.poll id = if ∃ n ∈ ns, id ∈ (s.line n).pollList then (s.poll id).unmark else s.poll id := by
  induction ns generalizing s with
  | nil => exact ⟨rfl, fun id => (if_neg (by simp)).symm⟩
  | cons m ns ih =>
    obtain ⟨hframe, hpoll⟩ := ih (State.clearMarks m s)
    have hlines : (State.clearMarks m s).lines = s.lines := (congrArg State.lines (State.clearMarks_eq m s) :)
    refine ⟨?_, fun id => ?_⟩
    · exact hframe.trans (congrArg
        (fun u : State => { u with polls := (ns.foldl (fun t n => State.clearMarks n t) (State.clearMarks m s)).polls })
        (State.clearMarks_eq m s))
    · refine (hpoll id).trans ?_
      simp only [State.clearMarks_poll, State.line_congr hlines, List.exists_mem_cons_iff]
      by_cases hm : id ∈ (s.line m).pollList
      · simp only [hm, if_true, true_or, Poll.unmark_unmark, ite_self]
      · simp only [hm, if_false, false_or]

/-- An update of every line. -/
theorem State.forLines_modLine (s : State) (f : Line → Line) :
    let t := s.forLines fun n u => u.modLine n f
    t = { s with lines := t.lines } ∧ ∀ n, t.line n = f (s.line n) := by
  refine ⟨rfl, fun n => ?_⟩
  have hforLines : (s.forLines fun n u => u.modLine n f) =
      (((s.modLine 0 f).modLine 1 f).modLine 2 f).modLine 3 f := rfl
  rw [hforLines]
  match n with
  | 0 => simp [State.modLine_line]
  | 1 => simp [State.modLine_line]
  | 2 => simp [State.modLine_line]
  | 3 => simp [State.modLine_line]

/-- The device enters FAULTED: its state, its cause, what the Ring Unit, the writer and the Capture Unit drop (R134, R184, R187). -/
def State.struck (s : State) (cause : FaultCause) : State :=
  ((((s.modHbi fun h => { h with device := .faulted, faultCause := cause }).latch .deviceFault).modRingUnit fun u =>
    { u with claim := none, requested := none }).modWriter fun w => { w with holdoffTimer := none }).modCapture Capture.deviceFault

/-- The device enters FAULTED, up to its engines (R187). -/
def State.blocksFaulted (s : State) (cause : FaultCause) : State :=
  ((s.struck cause).forLines State.clearMarks).forLines fun n u => u.modLine n Line.workless

theorem State.enterFaulted_eq {s : State} (hdevice : s.hbi.device ≠ .faulted) (cause : FaultCause) :
    s.enterFaulted cause = (s.blocksFaulted cause).enginesFaulted := if_neg hdevice

section

variable (s : State) (cause : FaultCause)

/-- The marks are cleared at the Poll Pool alone. -/
theorem State.struck_clearMarks :
    (s.struck cause).forLines State.clearMarks =
      { s.struck cause with polls := ((s.struck cause).forLines State.clearMarks).polls } :=
  (State.foldl_clearMarks allLines (s.struck cause)).1

theorem State.blocksFaulted_frame :
    s.blocksFaulted cause =
      { s.struck cause with polls := (s.blocksFaulted cause).polls, lines := (s.blocksFaulted cause).lines } := by
  have hmarks := s.struck_clearMarks cause
  rw [State.blocksFaulted]
  generalize (s.struck cause).forLines State.clearMarks = u at hmarks ⊢
  rw [(u.forLines_modLine Line.workless).1, hmarks]

theorem State.blocksFaulted_line (n : LineId) : (s.blocksFaulted cause).line n = (s.line n).workless := by
  have hline : ((s.struck cause).forLines State.clearMarks).line n = s.line n :=
    State.line_congr (congrArg State.lines (s.struck_clearMarks cause) :) n
  rw [State.blocksFaulted, (State.forLines_modLine _ Line.workless).2, hline]

theorem State.struck_clearMarks_poll (id : PollId) :
    ((s.struck cause).forLines State.clearMarks).poll id =
      if ∃ n, id ∈ (s.line n).pollList then (s.poll id).unmark else s.poll id := by
  have hline (n : LineId) : (s.struck cause).line n = s.line n := rfl
  have hpoll : (s.struck cause).poll id = s.poll id := rfl
  rw [State.forLines, (State.foldl_clearMarks allLines (s.struck cause)).2, hpoll]
  simp only [mem_allLines, true_and, hline]

theorem State.blocksFaulted_poll (id : PollId) :
    (s.blocksFaulted cause).poll id = if ∃ n, id ∈ (s.line n).pollList then (s.poll id).unmark else s.poll id := by
  have hpolls (u : State) : (u.forLines fun n v => v.modLine n Line.workless).polls = u.polls :=
    (congrArg State.polls (u.forLines_modLine Line.workless).1 :)
  rw [State.blocksFaulted, State.poll_congr (hpolls _), State.struck_clearMarks_poll]

/-- What the Capture Unit keeps of its unreleased bytes (R134). -/
theorem Capture.deviceFault_eq (c : Capture) :
    c.deviceFault =
      { c with
        writeQueue := [], staging := Vector.replicate 4 none, reserved := 0, placeOffset := c.writeOffset
        placeWrapped := false, lost := true
        unreleased := match c.config with
          | some g => if g.mode = .hold then c.unreleased - (c.writeQueue.map Placed.consumed).sum else c.unreleased
          | none => c.unreleased } := by
  have hhold : c.discardQueue.unreleased = match c.config with
      | some g => if g.mode = .hold then c.unreleased - (c.writeQueue.map Placed.consumed).sum else c.unreleased
      | none => c.unreleased := by
    rw [Capture.discardQueue, Capture.holdConfig]
    cases c.config with
    | none => rfl
    | some g => by_cases hmode : g.mode = .hold <;> simp [hmode]
  rw [Capture.deviceFault, hhold]
  rfl

theorem State.blocksFaulted_quiet : (s.blocksFaulted cause).FaultQuiet := by
  have hframe := s.blocksFaulted_frame cause
  have hcapture : (s.blocksFaulted cause).capture = s.capture.deviceFault := (congrArg State.capture hframe :)
  refine ⟨congrArg (fun u => u.hbi.device) hframe, fun m => ?_, ?_, ?_⟩
  · rw [State.blocksFaulted_line]
    rfl
  · rw [hcapture]
    rfl
  · rw [hcapture]
    rfl

end

/-! ### What becomes of a line, of the Admin Processor and of the blocks -/

/-- The states of an engine that goes to OFF at once in FAULTED (R43). -/
def State.endsAtOnce (s : State) (n : LineId) : Prop :=
  (s.line n).engine ∈ [Engine.idle, .quiet, .backoff, .lead, .await, .receive, .completeWait] ∨
    ((s.line n).engine = .deliver ∧ s.burstOf (.dataMover n) = false)

/-- The states of an engine that waits for the end of what it sends, or of its burst (R43). -/
def State.endsLater (s : State) (n : LineId) : Prop :=
  (s.line n).engine = .send ∨ (s.line n).engine = .trail ∨ ((s.line n).engine = .deliver ∧ s.burstOf (.dataMover n) = true)

theorem State.faultLine_of_atOnce {s : State} {n : LineId} (h : s.endsAtOnce n) : State.faultLine n s = s.faultEnd n := by
  rcases h with h | ⟨hengine, hburst⟩
  · simp only [List.mem_cons, List.not_mem_nil, or_false] at h
    rcases h with h | h | h | h | h | h | h <;> simp only [State.faultLine, h]
  · rw [← State.moverBusy_eq] at hburst
    simp only [State.faultLine, hengine, hburst, Bool.false_eq_true, if_false]

theorem State.faultLine_of_later {s : State} {n : LineId} (h : s.endsLater n) : State.faultLine n s = s.markCut n := by
  rcases h with h | h | ⟨hengine, hburst⟩
  · simp only [State.faultLine, h]
  · simp only [State.faultLine, h]
  · rw [← State.moverBusy_eq] at hburst
    simp only [State.faultLine, hengine, hburst, if_true]

namespace State.FaultQuiet

variable {s : State} {n : LineId}

/-- Through the others' steps a line's own condition stays. -/
theorem atOnce_of_others {a : State} (h : State.FaultsAt (· ≠ n) s a) (hs : s.endsAtOnce n) : a.endsAtOnce n := by
  rw [State.endsAtOnce, h.burst, h.line n fun hne => hne rfl]
  exact hs

theorem later_of_others {a : State} (h : State.FaultsAt (· ≠ n) s a) (hs : s.endsLater n) : a.endsLater n := by
  rw [State.endsLater, h.burst, h.line n fun hne => hne rfl]
  exact hs

theorem enginesFaulted_line_of_atOnce (hs : s.FaultQuiet) (h : s.endsAtOnce n) :
    s.enginesFaulted.line n = { (s.line n).off with pollList := (s.enginesFaulted.line n).pollList } := by
  obtain ⟨a, hbefore, hafter⟩ := hs.enginesFaulted_split n
  rw [State.faultLine_of_atOnce (atOnce_of_others hbefore h)] at hafter
  rw [hafter.line n fun hne => hne rfl, (hbefore.quiet hs).faultEnd_line, hbefore.line n fun hne => hne rfl]
  rfl

theorem enginesFaulted_line_of_later (hs : s.FaultQuiet) (h : s.endsLater n) :
    s.enginesFaulted.line n = { s.line n with cutting := true, pollList := (s.enginesFaulted.line n).pollList } := by
  obtain ⟨a, hbefore, hafter⟩ := hs.enginesFaulted_split n
  rw [State.faultLine_of_later (later_of_others hbefore h)] at hafter
  rw [hafter.line n fun hne => hne rfl, State.markCut, State.modLine_line_self, hbefore.line n fun hne => hne rfl]

/-- A station no other exchange is with takes the end of its own exchange alone. -/
theorem enginesFaulted_station_of_atOnce (hs : s.FaultQuiet) (h : s.endsAtOnce n) {x : Exchange} {k : SlotId}
    (hx : (s.line n).exchange = some x) (hk : x.station = some k) (hleaves : s.admin.Leaves k)
    (hothers : ∀ m y, m ≠ n → (s.line m).exchange = some y → y.station ≠ some k) :
    s.enginesFaulted.station k = (s.station k).faultEnded x := by
  obtain ⟨a, hbefore, hafter⟩ := hs.enginesFaulted_split n
  have hquiet := hbefore.quiet hs
  rw [State.faultLine_of_atOnce (atOnce_of_others hbefore h)] at hafter
  have hxa : (a.line n).exchange = some x := by
    rw [hbefore.line n fun hne => hne rfl]
    exact hx
  have hleavesa := hbefore.leaves hleaves
  rw [hafter.station k (hquiet.faultEnd.leaves hleavesa) fun m y hm hy => hothers m y hm (hbefore.exchange (hquiet.faultEnd.exchange hy)),
    hquiet.faultEnd_station hxa hk hleavesa, hbefore.station k hleaves hothers]

/-- A claim is withdrawn and a write not yet granted is dropped, whatever the engines do meanwhile (R159). -/
theorem enginesFaulted_admin_idle (hs : s.FaultQuiet)
    (h : s.admin = .idle ∨ (∃ c, s.admin = .claiming c) ∨ (∃ tag w, s.admin = .writing tag w) ∧ s.burstOf .adminWriter = false) :
    s.enginesFaulted.admin = .idle := by
  have hlines : State.FaultsAt (fun _ => True) s (s.forLines State.faultLine) := hs.foldl_faultLine.mono fun _ _ => trivial
  have hburst := hlines.burst .adminWriter
  have hquiet := hlines.quiet hs
  have hadmin := hlines.admin
  have henters : s.enginesFaulted = (s.forLines State.faultLine).faultAdmin.deferredApply := rfl
  generalize s.forLines State.faultLine = u at hburst hquiet hadmin henters
  have hidle : u.faultAdmin.admin = .idle := by
    have hstays : u.admin = .idle → u.faultAdmin.admin = .idle := fun e => by
      rw [State.faultAdmin, e]
      exact e
    rcases hadmin with e | ⟨e, -⟩
    · rcases h with h | ⟨c, h⟩ | ⟨⟨tag, w, h⟩, hnone⟩
      · exact hstays (e.trans h)
      · rw [State.faultAdmin, e.trans h]
        rfl
      · have hfree : (u.hbi.burst.any fun b => b.owner == .adminWriter) = false := hburst.trans hnone
        rw [State.faultAdmin, e.trans h]
        simp only [hfree, Bool.false_eq_true, if_false]
        rfl
    · exact hstays e
  rw [henters]
  have hlast := (((State.faultAdmin_faultsAt (fun _ => False) u).quiet hquiet).deferredApply fun _ => False).admin
  exact hlast.elim (fun e => e.trans hidle) And.left

end State.FaultQuiet

theorem State.blocksFaulted_admin (s : State) (cause : FaultCause) : (s.blocksFaulted cause).admin = s.admin :=
  (congrArg State.admin (s.blocksFaulted_frame cause) :)

theorem State.blocksFaulted_station (s : State) (cause : FaultCause) (k : SlotId) : (s.blocksFaulted cause).station k = s.station k :=
  State.station_congr (congrArg State.stations (s.blocksFaulted_frame cause) :) k

theorem State.blocksFaulted_capture (s : State) (cause : FaultCause) : (s.blocksFaulted cause).capture = s.capture.deviceFault :=
  (congrArg State.capture (s.blocksFaulted_frame cause) :)

theorem State.blocksFaulted_burst (s : State) (cause : FaultCause) (r : Requester) :
    (s.blocksFaulted cause).burstOf r = s.burstOf r := by
  have hhbi : (s.blocksFaulted cause).hbi = (s.struck cause).hbi := (congrArg State.hbi (s.blocksFaulted_frame cause) :)
  rw [State.burstOf, hhbi]
  rfl

theorem State.blocksFaulted_exchange {s : State} {cause : FaultCause} {n : LineId} {x : Exchange} :
    ((s.blocksFaulted cause).line n).exchange = some x ↔ (s.line n).exchange = some x := by
  rw [State.blocksFaulted_line]
  rfl

section

variable {s : State} (hdevice : s.hbi.device ≠ .faulted) (cause : FaultCause)

include hdevice

theorem State.enterFaulted_faultsAt : State.FaultsAt (fun _ => True) (s.blocksFaulted cause) (s.enterFaulted cause) := by
  rw [State.enterFaulted_eq hdevice]
  exact (s.blocksFaulted_quiet cause).enginesFaulted

/-- The entry to FAULTED at the interface, the rings and the completion writer, which its engines leave (R141, R186, R187). -/
theorem State.enterFaulted_frame :
    s.enterFaulted cause =
      { s.struck cause with
        polls := (s.enterFaulted cause).polls, lines := (s.enterFaulted cause).lines, stations := (s.enterFaulted cause).stations
        admin := (s.enterFaulted cause).admin, capture := (s.enterFaulted cause).capture } := by
  have hframe := (State.enterFaulted_faultsAt hdevice cause).frame
  rw [s.blocksFaulted_frame cause] at hframe
  exact hframe

theorem State.enterFaulted_line_keeps (n : LineId) : (s.line n).workless.FaultKeeps ((s.enterFaulted cause).line n) := by
  rw [← s.blocksFaulted_line cause]
  exact (State.enterFaulted_faultsAt hdevice cause).keeps n

theorem State.enterFaulted_line_of_atOnce {n : LineId} (h : s.endsAtOnce n) :
    (s.enterFaulted cause).line n = { (s.line n).workless.off with pollList := ((s.enterFaulted cause).line n).pollList } := by
  have hends : (s.blocksFaulted cause).endsAtOnce n := by
    rw [State.endsAtOnce, State.blocksFaulted_line, State.blocksFaulted_burst]
    exact h
  have hline := (s.blocksFaulted_quiet cause).enginesFaulted_line_of_atOnce hends
  rwa [← State.enterFaulted_eq hdevice, State.blocksFaulted_line] at hline

theorem State.enterFaulted_line_of_later {n : LineId} (h : s.endsLater n) :
    (s.enterFaulted cause).line n =
      { (s.line n).workless with cutting := true, pollList := ((s.enterFaulted cause).line n).pollList } := by
  have hends : (s.blocksFaulted cause).endsLater n := by
    rw [State.endsLater, State.blocksFaulted_line, State.blocksFaulted_burst]
    exact h
  have hline := (s.blocksFaulted_quiet cause).enginesFaulted_line_of_later hends
  rwa [← State.enterFaulted_eq hdevice, State.blocksFaulted_line] at hline

theorem State.enterFaulted_station_of_bystander {k : SlotId} (hleaves : s.admin.Leaves k)
    (hnone : ∀ n x, (s.line n).exchange = some x → x.station ≠ some k) : (s.enterFaulted cause).station k = s.station k := by
  rw [← s.blocksFaulted_admin cause] at hleaves
  exact ((State.enterFaulted_faultsAt hdevice cause).station k hleaves fun m x _ hx =>
    hnone m x (State.blocksFaulted_exchange.mp hx)).trans (s.blocksFaulted_station cause k)

theorem State.enterFaulted_station_of_atOnce {k : SlotId} {n : LineId} {x : Exchange} (hleaves : s.admin.Leaves k)
    (h : s.endsAtOnce n) (hx : (s.line n).exchange = some x) (hk : x.station = some k)
    (hothers : ∀ m y, m ≠ n → (s.line m).exchange = some y → y.station ≠ some k) :
    (s.enterFaulted cause).station k = (s.station k).faultEnded x := by
  have hends : (s.blocksFaulted cause).endsAtOnce n := by
    rw [State.endsAtOnce, State.blocksFaulted_line, State.blocksFaulted_burst]
    exact h
  rw [← s.blocksFaulted_admin cause] at hleaves
  rw [State.enterFaulted_eq hdevice, (s.blocksFaulted_quiet cause).enginesFaulted_station_of_atOnce hends
    (State.blocksFaulted_exchange.mpr hx) hk hleaves fun m y hm hy => hothers m y hm (State.blocksFaulted_exchange.mp hy),
    State.blocksFaulted_station]

theorem State.enterFaulted_poll {id : PollId} (hnone : ∀ n x, (s.line n).exchange = some x → x.origin ≠ .poll id) :
    (s.enterFaulted cause).poll id = if ∃ n, id ∈ (s.line n).pollList then (s.poll id).unmark else s.poll id :=
  ((State.enterFaulted_faultsAt hdevice cause).poll id fun m x _ hx =>
    hnone m x (State.blocksFaulted_exchange.mp hx)).trans (s.blocksFaulted_poll cause id)

theorem State.enterFaulted_capture (hnone : ∀ tag g, s.admin ≠ .deferred tag (.setCapture g)) :
    (s.enterFaulted cause).capture = s.capture.deviceFault := by
  rw [← s.blocksFaulted_admin cause] at hnone
  exact ((State.enterFaulted_faultsAt hdevice cause).captureKept (.inl hnone)).trans (s.blocksFaulted_capture cause)

theorem State.enterFaulted_admin_of_deferred {tag : Half} {w : AdminWait} (h : s.admin = .deferred tag w) :
    (s.enterFaulted cause).admin = if w.ready (s.enterFaulted cause) = true then .idle else s.admin := by
  rw [State.enterFaulted_eq hdevice, ← s.blocksFaulted_admin cause]
  exact (s.blocksFaulted_quiet cause).enginesFaulted_admin_of_deferred ((s.blocksFaulted_admin cause).trans h)

/-- With nothing reserved and nothing queued a SET CAPTURE that waits applies (R135, R158). -/
theorem State.enterFaulted_setCapture {tag : Half} {g : Option CaptureConfig} (h : s.admin = .deferred tag (.setCapture g)) :
    (s.enterFaulted cause).admin = .idle ∧ (s.enterFaulted cause).capture = s.capture.deviceFault.reconfigure g := by
  have hfaults := State.enterFaulted_faultsAt hdevice cause
  have hquiet := hfaults.quiet (s.blocksFaulted_quiet cause)
  have hready : (AdminWait.setCapture g).ready (s.enterFaulted cause) = true := by
    rw [AdminWait.ready, hquiet.reserved, hquiet.writeQueue]
    rfl
  have hidle := (State.enterFaulted_admin_of_deferred hdevice cause h).trans (if_pos hready)
  refine ⟨hidle, ?_⟩
  rw [hfaults.captureSet tag g ((s.blocksFaulted_admin cause).trans h) hidle, State.blocksFaulted_capture]

theorem State.enterFaulted_admin_idle (h : s.admin = .idle ∨ ∃ c, s.admin = .claiming c) : (s.enterFaulted cause).admin = .idle := by
  rw [← s.blocksFaulted_admin cause] at h
  rw [State.enterFaulted_eq hdevice]
  exact (s.blocksFaulted_quiet cause).enginesFaulted_admin_idle (h.imp_right .inl)

theorem State.enterFaulted_admin_of_writing {tag : Half} {w : AdminWrite} (h : s.admin = .writing tag w) :
    (s.enterFaulted cause).admin = if s.burstOf .adminWriter then s.admin else .idle := by
  have hwriting := (s.blocksFaulted_admin cause).trans h
  cases hburst : s.burstOf .adminWriter with
  | true =>
    rw [← s.blocksFaulted_burst cause] at hburst
    exact ((State.enterFaulted_faultsAt hdevice cause).writing tag w hwriting hburst).trans (s.blocksFaulted_admin cause)
  | false =>
    rw [← s.blocksFaulted_burst cause] at hburst
    rw [State.enterFaulted_eq hdevice]
    exact (s.blocksFaulted_quiet cause).enginesFaulted_admin_idle (.inr (.inr ⟨⟨tag, w, hwriting⟩, hburst⟩))

end

/-! ### The ends of bursts, in FAULTED and out of it -/

section

variable {s : State} (hreset : s.hbi.resetting = none)

include hreset

theorem exec_shadowWriteEnd (hburst : s.burstOf .shadowWriter = true) (error : Bool) :
    exec (.shadowWriteEnd error) s = .next (s.clearBurst.shadowWritten error) :=
  congrArg Host.Outcome.next (State.burstEnd_of_burst hburst hreset _)

theorem exec_completionWriteEnd_any (hburst : s.burstOf .completionWriter = true) (error : Bool) :
    exec (.completionWriteEnd error) s = .next (s.clearBurst.completionWritten error) :=
  congrArg Host.Outcome.next (State.burstEnd_of_burst hburst hreset _)

theorem exec_dataMoverBurstEnd_faulted {n : LineId} (hburst : s.burstOf (.dataMover n) = true) (hdevice : s.hbi.device = .faulted)
    (error : Bool) (data : Vector Byte 64) : exec (.dataMoverBurstEnd n error data) s = .next (s.clearBurst.faultEnd n) :=
  congrArg Host.Outcome.next ((State.burstEnd_of_burst hburst hreset _).trans (if_pos hdevice))

theorem exec_captureWriteEnd_faulted (hburst : s.burstOf .captureWriter = true) (hdevice : s.hbi.device = .faulted) (error : Bool) :
    exec (.captureWriteEnd error) s = .next s.clearBurst :=
  congrArg Host.Outcome.next ((State.burstEnd_of_burst hburst hreset _).trans (if_pos hdevice))

end

/-- In FAULTED already, the cause first recorded stays (R187). -/
theorem State.shadowWritten_of_faulted {s : State} (hdevice : s.hbi.device = .faulted) (error : Bool) : s.shadowWritten error = s := by
  cases error with
  | false => rfl
  | true => exact if_pos hdevice

/-- What a serious bus error leaves as it was, and what it records (R141, R152, R184, R186). -/
theorem State.enterFaulted_records {s : State} (hdevice : s.hbi.device ≠ .faulted) (cause : FaultCause) :
    (s.enterFaulted cause).hbi.device = .faulted ∧ (s.enterFaulted cause).hbi.faultCause = cause ∧
      (s.enterFaulted cause).hbi.attention[6] = true ∧
      (∀ i : Fin 7, s.hbi.attention[i] = true → (s.enterFaulted cause).hbi.attention[i] = true) ∧
      (s.enterFaulted cause).ringUnit.rings = s.ringUnit.rings ∧ (s.enterFaulted cause).writer.holdoffTimer = none ∧
      (s.enterFaulted cause).writer.holding = s.writer.holding ∧ (s.enterFaulted cause).writer.producer = s.writer.producer ∧
      (s.enterFaulted cause).writer.released = s.writer.released ∧ (s.enterFaulted cause).writer.phase = s.writer.phase := by
  have hframe := State.enterFaulted_frame hdevice cause
  have hhbi : (s.enterFaulted cause).hbi = (s.struck cause).hbi := (congrArg State.hbi hframe :)
  have hrings : (s.enterFaulted cause).ringUnit = (s.struck cause).ringUnit := (congrArg State.ringUnit hframe :)
  have hwriter : (s.enterFaulted cause).writer = (s.struck cause).writer := (congrArg State.writer hframe :)
  have hlatched (i : Fin 7) : (s.enterFaulted cause).hbi.attention[i] = (s.hbi.attention[i] || i.val == Cause.deviceFault.index) := by
    rw [hhbi]
    exact State.latch_attention_getElem (s.modHbi _) .deviceFault i
  refine ⟨?_, ?_, (hlatched 6).trans (Bool.or_true _), fun i hi => ?_, ?_, ?_, ?_, ?_, ?_, ?_⟩
  · rw [hhbi]
    rfl
  · rw [hhbi]
    rfl
  · rw [hlatched, hi, Bool.true_or]
  · rw [hrings]
    rfl
  all_goals rw [hwriter]; rfl

/-- Settles O25: the entry strikes the blocks, then the engines one by one, then the Admin Processor; what each step may touch is a relation
that the steps compose. -/
theorem seriousBusErrorFaultsTheDevice : Obligations.SeriousBusErrorFaultsTheDevice := by
  unfold Obligations.SeriousBusErrorFaultsTheDevice
  refine ⟨fun s hreset hdevice => ?serious, fun s cause hdevice => ?entry, fun s n hdevice => ?ends, fun s error hreset hdevice => ?frees⟩
  case serious =>
    have hrecords (cause : FaultCause) := State.enterFaulted_records (s := s.clearBurst) hdevice cause
    have hshadow (hburst : s.burstOf .shadowWriter = true) :
        exec (.shadowWriteEnd true) s = .next (s.clearBurst.enterFaulted .shadowBusError) := exec_shadowWriteEnd hreset hburst true
    have hcompletion (hburst : s.burstOf .completionWriter = true) :
        exec (.completionWriteEnd true) s = .next (s.clearBurst.enterFaulted .completionBusError) :=
      (exec_completionWriteEnd_any hreset hburst true).trans (congrArg Host.Outcome.next (if_neg hdevice))
    exact ⟨fun hburst => exec_shadowWriteEnd hreset hburst false, fun hburst => ⟨_, hshadow hburst, hrecords _⟩,
      fun hburst => ⟨_, hcompletion hburst, hrecords _⟩, hshadow, hcompletion⟩
  case entry =>
    intro t atOnce discarded
    have hframe := State.enterFaulted_frame hdevice cause
    have hdiscarded : s.capture.deviceFault = discarded := Capture.deviceFault_eq _
    have hdeferred {tag : Half} {w : AdminWait} (h : s.admin = .deferred tag w) :
        t.admin = if w.ready t = true then .idle else s.admin := State.enterFaulted_admin_of_deferred hdevice cause h
    have hstation {tag : Half} {k : SlotId} {w : AdminWait} (h : s.admin = .deferred tag w) (hready : w.ready t = !(t.station k).busy) :
        t.admin = if (t.station k).busy then s.admin else .idle := by
      rw [hdeferred h, hready]
      cases (t.station k).busy <;> rfl
    refine ⟨(congrArg State.hbi hframe :), (congrArg State.ringUnit hframe :), (congrArg State.writer hframe :),
      (congrArg State.pending hframe :), fun n => ?line, fun k hleaves => ⟨State.enterFaulted_station_of_bystander hdevice cause hleaves,
        fun n x h hx hk hothers => State.enterFaulted_station_of_atOnce hdevice cause hleaves h hx hk hothers⟩,
      fun id hnone => ?poll, fun hnone => (State.enterFaulted_capture hdevice cause hnone).trans hdiscarded, fun tag g h => ?capture,
      State.enterFaulted_admin_idle hdevice cause, fun tag w => State.enterFaulted_admin_of_writing hdevice cause,
      fun tag n h => ?stops, fun tag k h => h.elim (fun h => hstation h rfl) fun h => hstation h rfl, fun tag id h => ?deletes⟩
    case line =>
      have hkeeps := State.enterFaulted_line_keeps hdevice cause n
      refine ⟨hkeeps.prefetched, hkeeps.followUp, hkeeps.cycleTimer, hkeeps.config, hkeeps.counters, hkeeps.breakFlag, hkeeps.eventJam,
        hkeeps.eventBreak, hkeeps.eventOverrun, hkeeps.off, fun h => ?_, fun h => ?_⟩
      · rw [State.enterFaulted_line_of_atOnce hdevice cause h]
        exact ⟨rfl, rfl, rfl, rfl, rfl, rfl, rfl⟩
      · rw [State.enterFaulted_line_of_later hdevice cause h]
        exact ⟨rfl, rfl, rfl, rfl, rfl, rfl, rfl⟩
    case poll =>
      have hpoll := State.enterFaulted_poll hdevice cause hnone
      exact ⟨fun hlisted => hpoll.trans (if_pos hlisted), fun hunlisted => hpoll.trans (if_neg fun ⟨n, hn⟩ => hunlisted n hn)⟩
    case capture =>
      obtain ⟨hidle, hcapture⟩ := State.enterFaulted_setCapture hdevice cause h
      exact ⟨hidle, hcapture.trans (congrArg (Capture.reconfigure · g) hdiscarded)⟩
    case stops =>
      refine (hdeferred h).trans ?_
      simp only [AdminWait.ready, beq_iff_eq]
    case deletes =>
      refine (hdeferred h).trans ?_
      simp only [AdminWait.ready, beq_iff_eq]
  case ends =>
    intro off
    refine ⟨State.faultEnd_of_none, fun x r hx hk horigin => State.faultEnd_of_broadcast hx hk (by rw [horigin]; nofun),
      fun x k hx hk => ⟨fun r horigin => State.faultEnd_of_other hdevice hx hk (by rw [horigin]; nofun),
        fun j horigin => State.faultEnd_of_other hdevice hx hk (by rw [horigin]; nofun), fun id horigin hstate => ?_,
        fun id horigin hstate => ?_⟩⟩
    · exact (State.faultEnd_of_poll hdevice hx hk horigin).trans (congrArg (fun u => (State.modLine u n Line.off).deferredApply)
        (State.settlePoll_of_inFlight (s := s.modStation k (Station.faultEnded x)) hstate))
    · exact (State.faultEnd_of_poll hdevice hx hk horigin).trans (congrArg (fun u => (State.modLine u n Line.off).deferredApply)
        (State.settlePoll_of_deleting (s := s.modStation k (Station.faultEnded x)) hstate))
  case frees =>
    intro freed
    exact ⟨fun n data hburst => exec_dataMoverBurstEnd_faulted hreset hburst hdevice error data,
      fun hburst => (exec_shadowWriteEnd hreset hburst error).trans
        (congrArg Host.Outcome.next (State.shadowWritten_of_faulted (s := s.clearBurst) hdevice error)),
      fun hburst => (exec_completionWriteEnd_any hreset hburst error).trans (congrArg Host.Outcome.next (if_pos hdevice)),
      fun hburst => exec_captureWriteEnd_faulted hreset hburst hdevice error,
      fun r data hburst => (exec_recordFetchEnd hburst hreset error data).trans (congrArg Host.Outcome.next (if_pos hdevice))⟩

end Sys2Proof.Machine
end

section
/-! PROOFS. The register window: a write or a read acts at the word that holds its offset, and a read in step 1 of a reset
returns what the window then holds (R174, R176, R181, R200). -/

namespace Sys2Proof.Machine

/-! ### Register writes at their words (R174, R200) -/

/-- A write acts at the word its offset divided by 4 counts. -/
theorem State.writeRegister_at {offset : BitVec 6} {word : Nat} (h : offset.toNat / 4 = word) (s : State) (value : Word) :
    s.writeRegister offset value = (if word = 1 then s.writeControl (value.getLsbD 0) (value.getLsbD 2)
      else if word = 3 then s.acknowledge value else if word = 4 then s.writeMask value
      else if word = 5 then s.writeContextAddress value else if word = 6 then s.writeNotify value
      else if word = 7 then s.writeCompletionRelease value else if word = 8 then s.writeCaptureRelease value
      else if word = 10 then s.writeModeration value else s) := by
  have hlt : word < 16 := by omega
  rw [State.writeRegister, wordOffset_toNat, h]
  interval_cases word <;> rfl

theorem exec_registerWrite_of_no_reset {s : State} (hreset : s.hbi.resetting = none) {offset : BitVec 6} {value : Word}
    (h : writesReset offset value = false) : exec (.registerWrite offset value) s = .next (s.writeRegister offset value) :=
  (exec_registerWrite_of_not_writesReset h s).trans (congrArg Host.Outcome.next (State.access_of_no_reset hreset _ _))

/-- No other word than CONTROL's starts a reset (R175). -/
theorem writesReset_of_other {offset : BitVec 6} (h : offset.toNat / 4 ≠ 1) (value : Word) : writesReset offset value = false :=
  Bool.eq_false_iff.mpr fun hreset => h ((writesReset_iff offset value).mp hreset).1

theorem exec_registerWrite_at {s : State} (hreset : s.hbi.resetting = none) {offset : BitVec 6} {word : Nat}
    (h : offset.toNat / 4 = word) (hother : word ≠ 1) (value : Word) :
    exec (.registerWrite offset value) s = .next (s.writeRegister offset value) :=
  exec_registerWrite_of_no_reset hreset (writesReset_of_other (h ▸ hother) value)

/-! ### What a read returns (R174, R176, R136, R200) -/

theorem State.readRegister_of_no_reset {s : State} (h : s.hbi.resetting = none) (offset : BitVec 6) :
    s.readRegister offset = s.registerWord offset := by
  rw [State.readRegister, h]
  rfl

/-- The word its offset divided by 4 counts is read. -/
theorem State.registerWord_at {offset : BitVec 6} {word : Nat} (h : offset.toNat / 4 = word) (s : State) :
    s.registerWord offset = (if word = 0 then 0x00015034#32 else if word = 1 then s.controlWord else if word = 2 then s.statusWord
      else if word = 3 then s.hbi.attention.setWidth 32 else if word = 4 then s.hbi.mask.setWidth 32
      else if word = 5 then s.hbi.contextAddress else if word = 7 then s.writer.released.setWidth 32
      else if word = 8 then BitVec.ofNat 32 s.capture.releaseOffset else if word = 9 then s.positionWord
      else if word = 10 then s.writer.holdoff ++ (0#8 ++ s.writer.threshold) else 0#32) := by
  have hlt : word < 16 := by omega
  rw [State.registerWord, wordOffset_toNat, h]
  interval_cases word <;> rfl

theorem bitOf_le_one (b : Bool) : bitOf b ≤ 1 := by
  cases b <;> decide

/-- A bit of a word, from its place in the number. -/
theorem getLsbD_of_bit {x : Word} {k : Nat} {b : Bool} (h : x.toNat / 2 ^ k % 2 = bitOf b) : x.getLsbD k = b := by
  rw [← BitVec.testBit_toNat, Nat.testBit_eq_decide_div_mod_eq, h]
  cases b <;> rfl

theorem getElem_of_bit {x : Word} {k : Nat} (hk : k < 32) {b : Bool} (h : x.toNat / 2 ^ k % 2 = bitOf b) : x[k] = b :=
  (BitVec.getLsbD_eq_getElem hk).symm.trans (getLsbD_of_bit h)

theorem DeviceState.code_toNat (d : DeviceState) :
    d.code.toNat = [DeviceState.unconfigured, .loading, .running, .halting, .halted, .faulted].idxOf d := by
  cases d <;> rfl

theorem FaultCause.code_toNat (c : FaultCause) :
    c.code.toNat = [FaultCause.none, .contextInvalid, .contextBusError, .shadowBusError, .completionBusError].idxOf c := by
  cases c <;> rfl

/-- The line bits of STATUS as a number (R176). -/
def State.lineBits (s : State) : Nat :=
  bitOf (s.line 0).eventLatch + 2 * bitOf (s.line 1).eventLatch + 4 * bitOf (s.line 2).eventLatch + 8 * bitOf (s.line 3).eventLatch

theorem State.lineBits_lt (s : State) : s.lineBits < 16 := by
  have h0 := bitOf_le_one (s.line 0).eventLatch
  have h1 := bitOf_le_one (s.line 1).eventLatch
  have h2 := bitOf_le_one (s.line 2).eventLatch
  have h3 := bitOf_le_one (s.line 3).eventLatch
  rw [State.lineBits]
  omega

theorem State.lineBits_bit (s : State) (n : LineId) : s.lineBits / 2 ^ n.val % 2 = bitOf (s.line n).eventLatch := by
  have h0 := bitOf_le_one (s.line 0).eventLatch
  have h1 := bitOf_le_one (s.line 1).eventLatch
  have h2 := bitOf_le_one (s.line 2).eventLatch
  have h3 := bitOf_le_one (s.line 3).eventLatch
  rw [State.lineBits]
  match n with
  | 0 => change _ / 2 ^ 0 % 2 = _; omega
  | 1 => change _ / 2 ^ 1 % 2 = _; omega
  | 2 => change _ / 2 ^ 2 % 2 = _; omega
  | 3 => change _ / 2 ^ 3 % 2 = _; omega

/-- The capture bits of STATUS, one by one (R136). -/
theorem Capture.statusBits_bit (c : Capture) :
    c.statusBits < 64 ∧ c.statusBits % 2 = bitOf c.config.isSome ∧ c.statusBits / 2 % 2 = bitOf (c.config.any fun g => g.mode = .loop) ∧
      c.statusBits / 4 % 2 = bitOf c.paused ∧ c.statusBits / 8 % 2 = bitOf c.fault ∧ c.statusBits / 16 % 2 = bitOf c.badRelease ∧
      c.statusBits / 32 % 2 = bitOf c.reconfig := by
  have h0 := bitOf_le_one c.config.isSome
  have h1 := bitOf_le_one (c.config.any fun g => g.mode = .loop)
  have h2 := bitOf_le_one c.paused
  have h3 := bitOf_le_one c.fault
  have h4 := bitOf_le_one c.badRelease
  have h5 := bitOf_le_one c.reconfig
  rw [Capture.statusBits]
  omega

theorem State.statusWord_toNat (s : State) :
    s.statusWord.toNat =
      s.hbi.device.code.toNat + 16 * s.hbi.faultCause.code.toNat + 128 * bitOf (s.hbi.lastReset == .function) + 256 * s.lineBits +
        65536 * s.capture.statusBits := by
  have hdevice := s.hbi.device.code.isLt
  have hcause := s.hbi.faultCause.code.isLt
  have hreset := bitOf_le_one (s.hbi.lastReset == .function)
  have hlines := s.lineBits_lt
  obtain ⟨hcapture, -⟩ := s.capture.statusBits_bit
  refine (BitVec.toNat_ofNat ..).trans (Nat.mod_eq_of_lt ?_)
  change s.hbi.device.code.toNat + 16 * s.hbi.faultCause.code.toNat + 128 * bitOf (s.hbi.lastReset == .function) + 256 * s.lineBits +
    65536 * s.capture.statusBits < 2 ^ 32
  omega

/-- CAPTURE POSITION as a number (R136, R200). -/
theorem State.positionWord_toNat {s : State} (h : s.capture.writeOffset < 1048576) :
    s.positionWord.toNat = s.capture.writeOffset + 1048576 * (s.capture.lapCount.toNat % 4096) := by
  have hoffset : (BitVec.ofNat 20 s.capture.writeOffset).toNat = s.capture.writeOffset := by
    rw [BitVec.toNat_ofNat]
    exact Nat.mod_eq_of_lt h
  have hlap : (s.capture.lapCount.extractLsb' 0 12).toNat = s.capture.lapCount.toNat % 4096 := by
    rw [BitVec.extractLsb'_toNat, Nat.shiftRight_zero]
  rw [State.positionWord, BitVec.toNat_append, Nat.shiftLeft_eq, hoffset, hlap, Nat.mul_comm, ← Nat.two_pow_add_eq_or_of_lt h,
    Nat.add_comm]

theorem moderationWord_toNat (holdoff : Half) (threshold : Byte) :
    (holdoff ++ (0#8 ++ threshold)).toNat = threshold.toNat + 65536 * holdoff.toNat := by
  have hlow : (0#8 ++ threshold).toNat = threshold.toNat := by
    rw [BitVec.toNat_append]
    simp
  have hlt := threshold.isLt
  rw [BitVec.toNat_append, Nat.shiftLeft_eq, hlow, Nat.mul_comm, ← Nat.two_pow_add_eq_or_of_lt (by omega), Nat.add_comm]

/-- The two fields of MODERATION (R200). -/
theorem moderation_threshold (value : Word) : value.setWidth 8 = BitVec.ofNat 8 value.toNat := setWidth_eq_ofNat value

theorem moderation_holdoff (value : Word) : value.extractLsb' 16 16 = BitVec.ofNat 16 (value.toNat / 65536) := by
  apply BitVec.eq_of_toNat_eq
  rw [BitVec.extractLsb'_toNat, Nat.shiftRight_eq_div_pow, BitVec.toNat_ofNat]

/-- CONTROL as read (R174). -/
theorem State.controlWord_toNat (s : State) : s.controlWord.toNat = bitOf s.hbi.enable + 4 * bitOf s.hbi.irqEnable := by
  have henable := bitOf_le_one s.hbi.enable
  have hirq := bitOf_le_one s.hbi.irqEnable
  exact (BitVec.toNat_ofNat ..).trans (Nat.mod_eq_of_lt (by omega))

/-! ### Reads in a reset (R181) -/

/-- Before the part works: no reset waits, and the device is UNCONFIGURED, LOADING or FAULTED. -/
def State.BeforeWork (s : State) : Prop := s.hbi.resetting = none ∧ s.hbi.device.working = false

/-- ENABLE before the part works: to LOADING or to FAULTED, or no more than the bits written (R175). -/
theorem State.writeControl_beforeWork {s : State} (h : s.BeforeWork) (enable irq : Bool) : (s.writeControl enable irq).BeforeWork := by
  obtain ⟨hreset, hdevice⟩ := h
  by_cases hsame : s.hbi.enable = enable
  · rw [State.writeControl_of_same hsame]
    exact ⟨hreset, hdevice⟩
  cases enable with
  | true =>
    rw [State.writeControl_set (Bool.eq_false_iff.mpr hsame)]
    cases hstate : s.hbi.device with
    | unconfigured =>
      dsimp only
      split
      · exact ⟨hreset, rfl⟩
      · have hfaulted := State.enterFaulted_frame (s := s.modHbi fun h => { h with irqEnable := irq, enable := true })
          (hstate ▸ by nofun) .contextInvalid
        rw [hfaulted]
        exact ⟨hreset, rfl⟩
    | loading | faulted => exact ⟨hreset, hdevice⟩
    | running | halting | halted =>
      rw [hstate] at hdevice
      cases hdevice
  | false =>
    have hset : s.hbi.enable = true := by
      cases he : s.hbi.enable with
      | true => rfl
      | false => exact absurd he hsame
    have hidle : s.hbi.device ≠ .running := fun e => by
      rw [e] at hdevice
      cases hdevice
    rw [State.writeControl_clear hset]
    dsimp only
    rw [if_neg hidle]
    exact ⟨hreset, hdevice⟩

theorem State.evaluatePause_beforeWork {s : State} (h : s.BeforeWork) : s.evaluatePause.BeforeWork := by
  rw [State.BeforeWork, s.evaluatePause_returns.hbi]
  exact h

theorem State.captureReleaseTo_beforeWork {s : State} (h : s.BeforeWork) (v : Nat) : (s.captureReleaseTo v).BeforeWork := by
  cases hhold : s.capture.holdConfig with
  | none =>
    rw [State.captureReleaseTo_of_ignored hhold]
    exact h
  | some g =>
    rw [State.captureReleaseTo_of_hold hhold]
    split
    · exact State.evaluatePause_beforeWork h
    · exact h

theorem State.writeCaptureRelease_beforeWork {s : State} (h : s.BeforeWork) (value : Word) : (s.writeCaptureRelease value).BeforeWork := by
  rw [State.writeCaptureRelease]
  split
  · exact h
  · exact State.captureReleaseTo_beforeWork h _

theorem State.acknowledge_beforeWork {s : State} (h : s.BeforeWork) (value : Word) : (s.acknowledge value).BeforeWork := by
  rw [State.acknowledge]
  split <;> exact h

theorem State.writeContextAddress_beforeWork {s : State} (h : s.BeforeWork) (value : Word) : (s.writeContextAddress value).BeforeWork := by
  rw [State.writeContextAddress]
  split <;> exact h

/-- NOTIFY and COMPLETION RELEASE are ignored before the part works (R140, R153). -/
theorem State.writeNotify_beforeWork {s : State} (h : s.BeforeWork) (value : Word) : (s.writeNotify value).BeforeWork := by
  rw [State.writeNotify, if_neg (Bool.eq_false_iff.mp h.2)]
  exact h

theorem State.writeCompletionRelease_beforeWork {s : State} (h : s.BeforeWork) (value : Word) :
    (s.writeCompletionRelease value).BeforeWork := by
  rw [State.writeCompletionRelease, if_neg (Bool.eq_false_iff.mp h.2)]
  exact h

theorem State.writeRegister_beforeWork {s : State} (h : s.BeforeWork) (offset : BitVec 6) (value : Word) :
    (s.writeRegister offset value).BeforeWork := by
  rw [State.writeRegister]
  split
  · exact State.writeControl_beforeWork h _ _
  · exact State.acknowledge_beforeWork h value
  · exact h
  · exact State.writeContextAddress_beforeWork h value
  · exact State.writeNotify_beforeWork h value
  · exact State.writeCompletionRelease_beforeWork h value
  · exact State.writeCaptureRelease_beforeWork h value
  · exact h
  · exact h

/-- An access that was held does not start a reset, and the part does not work after it. -/
theorem State.serve_beforeWork {s : State} (h : s.BeforeWork) (c : Instr) : (s.serve c).BeforeWork := by
  cases c with
  | enableSet irq => exact State.writeControl_beforeWork h true irq
  | enableClear irq => exact State.writeControl_beforeWork h false irq
  | attentionAcknowledge value => exact State.acknowledge_beforeWork h value
  | notify value => exact State.writeNotify_beforeWork h value
  | completionRelease value => exact State.writeCompletionRelease_beforeWork h value
  | captureRelease value => exact State.writeCaptureRelease_beforeWork h value
  | registerWrite offset value => exact State.writeRegister_beforeWork h offset value
  | _ => exact h

theorem State.foldl_serve_beforeWork (held : List Instr) {s : State} (h : s.BeforeWork) : (held.foldl State.serve s).BeforeWork := by
  induction held generalizing s with
  | nil => exact h
  | cons c held ih => exact ih (State.serve_beforeWork h c)

theorem State.takeReset_beforeWork (s : State) (cause : ResetCause) : (s.takeReset cause).BeforeWork := ⟨rfl, rfl⟩

/-- Settles O15: a write and a read at each of the sixteen words, and a read in step 1 of a reset. -/
theorem registerWriteActsAtItsOffset : Obligations.RegisterWriteActsAtItsOffset := by
  unfold Obligations.RegisterWriteActsAtItsOffset
  refine ⟨fun s offset value hoffset hvalue => ?resets, fun s offset value hreset => ?writes, fun s offset hreset => ?reads,
    fun s offset cause hreset => ?held⟩
  case resets => exact exec_registerWrite_of_writesReset ((writesReset_iff offset value).mpr ⟨hoffset, hvalue⟩) s
  case writes =>
    have hwrite {word : Nat} (h : offset.toNat / 4 = word) (hother : word ≠ 1) :
        exec (.registerWrite offset value) s = .next (s.writeRegister offset value) := exec_registerWrite_at hreset h hother value
    refine ⟨fun h hvalue => ?control, fun h => ?acknowledge, fun h => ?mask, fun h hdevice => ?address, fun h hdevice => ?ignored,
      fun h => ?notify, fun h => ?completion, fun h => ?capture, fun h => ?moderation, fun h => ?nothing⟩
    case control =>
      have hnot : writesReset offset value = false := Bool.eq_false_iff.mpr fun hresets => by
        rw [((writesReset_iff offset value).mp hresets).2] at hvalue
        cases hvalue
      rw [exec_registerWrite_of_no_reset hreset hnot, State.writeRegister_at h, if_pos rfl, BitVec.getLsbD_eq_getElem (by decide),
        BitVec.getLsbD_eq_getElem (by decide)]
      cases value[0]
      · exact (exec_enableClear hreset _).symm
      · exact (exec_enableSet hreset _).symm
    case acknowledge => rw [hwrite h (by decide), State.writeRegister_at h, exec_attentionAcknowledge hreset]; rfl
    case mask => rw [hwrite h (by decide), State.writeRegister_at h, exec_attentionMask hreset]; rfl
    case address =>
      rw [hwrite h (by decide), State.writeRegister_at h]
      exact congrArg Host.Outcome.next (if_pos hdevice)
    case ignored =>
      rw [hwrite h (by decide), State.writeRegister_at h]
      exact congrArg Host.Outcome.next (if_neg hdevice)
    case notify => rw [hwrite h (by decide), State.writeRegister_at h, exec_notify hreset]; rfl
    case completion => rw [hwrite h (by decide), State.writeRegister_at h, exec_completionRelease hreset]; rfl
    case capture => rw [hwrite h (by decide), State.writeRegister_at h, exec_captureRelease hreset]; rfl
    case moderation =>
      rw [hwrite h (by decide), State.writeRegister_at h, ← moderation_threshold, ← moderation_holdoff]
      rfl
    case nothing =>
      simp only [List.mem_cons, List.not_mem_nil, or_false] at h
      rcases h with h | h | h | h | h | h | h | h
      all_goals rw [hwrite h (by decide), State.writeRegister_at h]; rfl
  case reads =>
    intro read one
    have hread {word : Nat} (h : offset.toNat / 4 = word) : read = _ :=
      (State.readRegister_of_no_reset hreset offset).trans (s.registerWord_at h)
    refine ⟨fun h => hread h, fun h => ?control, fun h => ?status, fun h => ?attention, fun h => ?mask, fun h => hread h,
      fun h => ?released, fun h hoffset => ?offset, fun h hoffset => ?position, fun h => ?moderation, fun h => ?nothing⟩
    case control => rw [hread h]; exact s.controlWord_toNat
    case status =>
      have hword : read = s.statusWord := hread h
      have hnumber := s.statusWord_toNat
      rw [← hword] at hnumber
      have hdevice := s.hbi.device.code.isLt
      have hcause := s.hbi.faultCause.code.isLt
      have hreset := bitOf_le_one (s.hbi.lastReset == .function)
      have hlines := s.lineBits_lt
      obtain ⟨hcapture, henabled, hloop, hpaused, hfault, hbad, hpending⟩ := s.capture.statusBits_bit
      have hmode : read[17] = s.capture.config.any fun g => g.mode = .loop := getElem_of_bit (by decide) (by omega)
      refine ⟨?_, ?_, getElem_of_bit (by decide) (by omega), fun n => getLsbD_of_bit ?_, by omega,
        getElem_of_bit (by decide) (by omega), fun g hg => ?_, fun hnone => ?_, getElem_of_bit (by decide) (by omega),
        getElem_of_bit (by decide) (by omega), getElem_of_bit (by decide) (by omega), getElem_of_bit (by decide) (by omega), by omega⟩
      · rw [← DeviceState.code_toNat]
        omega
      · rw [← FaultCause.code_toNat]
        omega
      · have hbit := s.lineBits_bit n
        have hshift : read.toNat / 2 ^ (8 + n.val) % 2 = s.lineBits / 2 ^ n.val % 2 := by
          match n with
          | 0 => change _ / 2 ^ 8 % 2 = _ / 2 ^ 0 % 2; omega
          | 1 => change _ / 2 ^ 9 % 2 = _ / 2 ^ 1 % 2; omega
          | 2 => change _ / 2 ^ 10 % 2 = _ / 2 ^ 2 % 2; omega
          | 3 => change _ / 2 ^ 11 % 2 = _ / 2 ^ 3 % 2; omega
        exact hshift.trans hbit
      · rw [hmode, hg]
        rfl
      · rw [hmode, hnone]
        rfl
    case attention => rw [hread h]; exact BitVec.toNat_setWidth_of_le (b := s.hbi.attention) (by decide : 7 ≤ 32)
    case mask => rw [hread h]; exact BitVec.toNat_setWidth_of_le (b := s.hbi.mask) (by decide : 7 ≤ 32)
    case released => rw [hread h]; exact BitVec.toNat_setWidth_of_le (b := s.writer.released) (by decide : 16 ≤ 32)
    case offset =>
      rw [hread h]
      exact (BitVec.toNat_ofNat ..).trans (Nat.mod_eq_of_lt (by omega))
    case position => rw [hread h]; exact State.positionWord_toNat hoffset
    case moderation => rw [hread h]; exact moderationWord_toNat ..
    case nothing =>
      simp only [List.mem_cons, List.not_mem_nil, or_false] at h
      rcases h with h | h | h | h | h | h
      all_goals exact hread h
  case held =>
    have hafter := State.foldl_serve_beforeWork s.hbi.held (s.takeReset_beforeWork cause)
    rw [State.readRegister_of_no_reset hafter.1, State.readRegister, hreset, ← State.finishReset_of_reset hreset]
    rfl

end Sys2Proof.Machine
end
